-- ==== Sys2Proof/Word.lean ====
section
/-! DEFINITION. The widths of the LIN codec block's values (spec 00_scope.md R6, R9): every value is unsigned, bit 0
is the least significant bit. -/

namespace Sys2Proof

/-- One byte: the width of every frame field, of a PID and of a checksum (R6). -/
abbrev Byte := BitVec 8

/-- A frame identifier, 0 to 63 (R6, ID_WIDTH = 6). -/
abbrev Ident := BitVec 6

/-- The two parity bits, p0 in bit 0 and p1 in bit 1 (R40, R60). -/
abbrev ParityBits := BitVec 2

/-- The running sum of the checksum, SUM_WIDTH = 9 (R6, R73). -/
abbrev Sum := BitVec 9

/-- The assembly cursor, CUR_WIDTH = 4 (R6, R14). -/
abbrev Cursor := BitVec 4

/-- The five data bytes of a frame, data_0 first (R6: N_DATA = 5; R47 (c)). -/
structure Payload where
  d0 : Byte
  d1 : Byte
  d2 : Byte
  d3 : Byte
  d4 : Byte
deriving DecidableEq, Repr

end Sys2Proof
end

