-- ==== Sys2Proof/Config.lean ====
section
/-! DEFINITION. The constants of this hardware (spec 00_scope.md R6) and its one open parameter (spec
92_eei_decisions.md D24). They are hardwired, not registers (10_state.md R19). -/

namespace Sys2Proof

/-- N_DATA: the number of data bytes of a frame (R6, decision D20). -/
abbrev Config.nData : Nat := 5

/-- FRAME_LEN: 2 (break and sync) + 1 (PID) + N_DATA + 1 (checksum), that is 9 (R6). -/
abbrev Config.frameLen : Nat := 9

/-- SYNC: the fixed sync byte (R6). -/
abbrev Config.sync : Byte := 0x55#8

/-- BREAK_PAD: the placeholder byte at wire position 0 (R6, R42). -/
abbrev Config.breakPad : Byte := 0x00#8

/-- INSTANCE_ID: the identifier the environment of this installation sends (R6, R7, R92). -/
abbrev Config.instanceId : Ident := 1#6

/-- INSTANCE_PAYLOAD: the five bytes the environment of this installation sends, whose value the spec leaves open
(R6, R92, decision D24, U11): a free value, byte by byte. Log 10. -/
opaque Config.instancePayload : Nat → Byte

/-- What a byte of BUF that nothing has written reads as. R22 and U4 leave it unspecified ("a model may use any value,
or no value"); no output of the block depends on it (R13). DESIGN CHOICE, log 4. -/
abbrev Config.bufUnwritten : Byte := 0x00#8

end Sys2Proof
end

