-- ==== Sys2Proof/Syntax.lean ====
section
/-! DEFINITION. The operations of the block as syntax: one constructor per row of spec/opcode_table.json
(spec 30_encoding.md R44), and the reasons the command port refuses bytes. -/

namespace Sys2Proof

/-- The eleven operations (R44). Operands carry their own width, so an identifier above 63 cannot be written (R50). -/
inductive Instr where
  /-- NOP: the step in which nothing is requested (R146). -/
  | nop
  /-- RESET: the decoder to its initial condition (R145). -/
  | reset
  /-- PARITY id: the two parity bits (R60). -/
  | parity (id : Ident)
  /-- ENCPID id: identifier to protected identifier (R61). -/
  | encpid (id : Ident)
  /-- DECPID pid: protected identifier to identifier, with the parity verdict (R62). -/
  | decpid (pid : Byte)
  /-- CKSUM seed, bytes: the enhanced checksum (R71). -/
  | cksum (seed : Byte) (bytes : List Byte)
  /-- CKVFY seed, candidate, bytes: recompute and compare (R72). -/
  | ckvfy (seed candidate : Byte) (bytes : List Byte)
  /-- SEND id, data: build and send one frame (R85). -/
  | send (id : Ident) (data : Payload)
  /-- BRK: the break-detected event (R96). -/
  | brk
  /-- RXB byte: the byte-received event (R97). -/
  | rxb (byte : Byte)
  /-- POLL: the frame-complete check (R98). -/
  | poll
deriving DecidableEq, Repr

/-- The eleven opcodes as names (R46), without operands. -/
inductive Op where
  | nop | reset | parity | encpid | decpid | cksum | ckvfy | send | brk | rxb | poll
deriving DecidableEq, Repr

/-- Why bytes on the command port are no operation of the block. -/
inductive Reject where
  /-- The first byte is none of the eleven opcodes (R49). -/
  | reservedOpcode (op : Byte)
  /-- The identifier byte of PARITY, ENCPID or SEND has bit 6 or bit 7 set (R50). -/
  | identifierRange (b : Byte)
  /-- Fewer bytes stand on the port than the command has (log 7). -/
  | incomplete
deriving DecidableEq, Repr

end Sys2Proof
end

