-- ==== Sys2Proof/Machine/State.lean ====
section
/-! DEFINITION. The state of the block as plain data (spec 10_state.md), the actions and results of a step (spec
30_encoding.md R43, R44, R57), and the reasons a step can stop. -/

namespace Sys2Proof.Machine

/-- The contents of BUF as cells (index, byte), indices strictly rising, no cell holding what an unlisted index reads
as (`Memory.wf`). The block has no other memory (20_memory.md R25). -/
abbrev Memory := List Host.Cell

/-- The fields of a decoded or sent frame that its report carries, in the order of R43. -/
structure Frame where
  sync : Byte
  pid : Byte
  data : Payload
  ck : Byte
deriving DecidableEq, Repr

/-- What POLL returns (R57). -/
inductive PollResult where
  /-- `None`: no complete frame was pending. -/
  | noFrame
  /-- `RxOk`: a complete frame, sync and checksum good. -/
  | rxOk (f : Frame)
  /-- `SyncErr`: the observed byte at index 1 (R120). -/
  | syncErr (observed : Byte)
  /-- `CkErr`: the received checksum and the recomputed one (R121). -/
  | ckErr (received expected : Byte)
deriving DecidableEq, Repr

/-- The two frame errors (R120, R121). -/
inductive FrameError where
  /-- SyncError: the observed byte at index 1. -/
  | sync (observed : Byte)
  /-- ChecksumError: the received checksum and the recomputed one. -/
  | checksum (received expected : Byte)
deriving DecidableEq, Repr

/-- The result of an operation that returns one (R44). -/
inductive Result where
  /-- PARITY. -/
  | parity (p : ParityBits)
  /-- ENCPID. -/
  | encpid (pid : Byte)
  /-- DECPID. -/
  | decpid (id : Ident) (parityOk : Bool)
  /-- CKSUM. -/
  | cksum (ck : Byte)
  /-- CKVFY. -/
  | ckvfy (ok : Bool)
  /-- POLL. -/
  | poll (r : PollResult)
deriving DecidableEq, Repr

/-- The outputs to the collaborators (60_exceptions.md R130, R131, R134; 30_encoding.md R43). -/
inductive Action where
  /-- Transmit sink: request the line-level break. -/
  | txBreak
  /-- Transmit sink: one byte. -/
  | txByte (b : Byte)
  /-- Receive-arm primitive: deliver exactly one more byte. -/
  | rxArm
  /-- Observability sink: a frame was sent. -/
  | reportSent (f : Frame)
  /-- Observability sink: a good frame was received. -/
  | reportRxOk (f : Frame)
  /-- Observability sink: sync mismatch. -/
  | reportSyncErr (observed : Byte)
  /-- Observability sink: checksum mismatch. -/
  | reportCkErr (received expected : Byte)
deriving DecidableEq, Repr

/-- Why the machine stops with a fault. -/
inductive Fault where
  /-- Raised by RXB alone, where it would store at a buffer index that does not exist (CUR is 9 or more while a byte
  request is outstanding). R25: no other address exists; R29: such a store never happens in a reachable state. Safe:
  it stops where U12 leaves any behaviour open. Log 5. -/
  | bufferIndex (cur : Cursor)
deriving DecidableEq, Repr

/-- Why the machine refuses. -/
inductive Refusal where
  /-- An instruction without a meaning in this model, by its mnemonic (raised by no arm of this model). Safe. -/
  | notModelled (mnemonic : String)
  /-- Raised by the step alone, where the bytes on the command port are no operation of the block (R49, R50). Safe:
  nothing happens and nothing follows from it. Log 6. -/
  | badCommand (why : Reject)
deriving DecidableEq, Repr

/-- The architectural tuple of R10 (the first five fields), the command port, and the outputs of the latest operation
(R8; logs 1, 3). -/
structure State where
  /-- BUF[0..8], the assembly buffer (R11). -/
  buf : Memory
  /-- CUR, the next-write index (R14). -/
  cur : Cursor
  /-- RECEIVING: true is ASSEMBLING, false is IDLE (R16). -/
  receiving : Bool
  /-- BRK_DETECTED, the sticky break flag (R15). -/
  brkDetected : Bool
  /-- RX_ARMED: a one-byte receive request is outstanding (R17). -/
  rxArmed : Bool
  /-- The command bytes presented and not yet performed (R45). Log 1. -/
  port : List Byte
  /-- The actions of the latest operation, in order (R8). Log 3. -/
  actions : List Action
  /-- The result of the latest operation, if it returns one (R8, R44). Log 3. -/
  result : Option Result
deriving DecidableEq, Repr

/-- The machine right after RESET (R22, R145, R147): IDLE, armed, its one RX_ARM issued, nothing presented. -/
def State.reset : State where
  buf := []
  cur := 0#4
  receiving := false
  brkDetected := false
  rxArmed := true
  port := []
  actions := [.rxArm]
  result := none

end Sys2Proof.Machine
end

