-- ==== Sys2Proof/Machine/Ops.lean ====
section
/-! DEFINITION. The named operations over the buffer and the registers, each said once: reading and writing BUF, the
outputs of a step, the receive arm, and taking a frame error. -/

namespace Sys2Proof.Machine

/-- MemRead (R9, R25): the byte at an index; an index that holds no cell reads as the unwritten byte (log 4). A read
has no side effect (R31). -/
def Memory.read : Memory → Nat → Byte
  | [], _ => Config.bufUnwritten
  | (k, v) :: m, a => if k = a then v else Memory.read m a

/-- The cells without those at one index. -/
def Memory.erase : Memory → Nat → Memory
  | [], _ => []
  | (k, v) :: m, a => if k = a then Memory.erase m a else (k, v) :: Memory.erase m a

/-- A new cell at its place in the rising order of indices. -/
def Memory.insert : Memory → Nat → Byte → Memory
  | [], a, v => [(a, v)]
  | (k, x) :: m, a, v => if a < k then (a, v) :: (k, x) :: m else (k, x) :: Memory.insert m a v

/-- MemWrite (R9, R25): one byte at an index, keeping the canonical form. -/
def Memory.write (m : Memory) (a : Nat) (v : Byte) : Memory :=
  if v = Config.bufUnwritten then Memory.erase m a else Memory.insert (Memory.erase m a) a v

/-- The canonical form from an index on: indices strictly rising and below FRAME_LEN, no unwritten byte listed. -/
def Memory.wfFrom : Nat → Memory → Bool
  | _, [] => true
  | lo, (k, v) :: m =>
    decide (lo ≤ k) && decide (k < Config.frameLen) && decide (v ≠ Config.bufUnwritten)
      && Memory.wfFrom (k + 1) m

/-- The canonical form of BUF: equal contents are equal lists, and only the indices 0 to 8 exist (R25). -/
def Memory.wf (m : Memory) : Bool := Memory.wfFrom 0 m

/-- The start of an operation: the outputs of the one before are gone (R23: an action is emitted once and forgotten).
Log 3. -/
def State.begin (s : State) : State := { s with actions := [], result := none }

/-- `emit A` (R9): append to the ordered action list. -/
def State.emit (a : Action) (s : State) : State := { s with actions := s.actions ++ [a] }

/-- `return v` (R9). -/
def State.answer (r : Result) (s : State) : State := { s with result := some r }

/-- A pure operation: a result, no action, no other change (R21). -/
def State.pureResult (r : Result) (s : State) : State := s.begin.answer r

/-- `RX_ARM` (R17, R131): the request is outstanding, and not counted twice (decision D8). -/
def State.arm (s : State) : State := { s with rxArmed := true }.emit .rxArm

/-- The delivery of one byte satisfies the request (R17, R128). -/
def State.deliver (s : State) : State := { s with rxArmed := false }

/-- The foreground consumes the break flag (R15). -/
def State.consumeBreak (s : State) : State := { s with brkDetected := false }

/-- `BUF[CUR] <- byte; CUR <- CUR + 1`, where the index exists (R12, R25, R97). -/
def State.storeByte (b : Byte) (s : State) : Option State :=
  if s.cur.toNat < Config.frameLen then
    some { s with buf := s.buf.write s.cur.toNat b, cur := s.cur + 1#4 }
  else none

/-- The three assignments and the re-arm that end a complete frame, the same for all outcomes (R98, R124 (2), (3)). -/
def State.toIdle (s : State) : State := { s with receiving := false, cur := 0#4 }.arm

/-- The cause codes 1 and 2 (R120, R121, decision D16). They label the errors; no register holds them. -/
def FrameError.code : FrameError → Nat
  | .sync _ => 1
  | .checksum _ _ => 2

/-- The report of an error (R43). -/
def FrameError.report : FrameError → Action
  | .sync observed => .reportSyncErr observed
  | .checksum received expected => .reportCkErr received expected

/-- The result of an error (R57). -/
def FrameError.pollResult : FrameError → PollResult
  | .sync observed => .syncErr observed
  | .checksum received expected => .ckErr received expected

/-- `raise` (R9, R124): the report, then IDLE with CUR 0, armed with RX_ARM; the error is POLL's result. Nothing is
saved, no mode changes, and there is no return operation (R125). -/
def State.raiseFrameError (e : FrameError) (s : State) : State :=
  (s.emit e.report).toIdle.answer (.poll e.pollResult)

/-- The good outcome of a complete frame: its report, then the same end as an error's (R98, R99). -/
def State.acceptFrame (f : Frame) (s : State) : State :=
  (s.emit (.reportRxOk f)).toIdle.answer (.poll (.rxOk f))

end Sys2Proof.Machine
end

