-- ==== Sys2Proof/Machine/ChecksumCodec.lean ====
section
/-! DEFINITION. The checksum codec (spec 41_checksum_codec.md): CKSUM, CKVFY. -/

namespace Sys2Proof.Machine

/-- One step of the end-around-carry sum: a 9-bit addition, then 255 subtracted where it reached 256 (R70). -/
def foldStep (s : Sum) (b : Byte) : Sum :=
  let t := s + b.setWidth 9
  if 256#9 ≤ t then t - 255#9 else t

/-- The running sum over a byte sequence, first byte first, from the seed (R70). -/
def checksumFold (seed : Byte) (bytes : List Byte) : Sum := bytes.foldl foldStep (seed.setWidth 9)

/-- `ComputeChecksum`: the complement of the low 8 bits of the sum (R71). -/
def computeChecksum (seed : Byte) (bytes : List Byte) : Byte := ~~~((checksumFold seed bytes).setWidth 8)

/-- `VerifyChecksum`: recompute and compare (R72). -/
def verifyChecksum (seed candidate : Byte) (bytes : List Byte) : Bool :=
  computeChecksum seed bytes == candidate

/-- CKSUM seed, bytes (R71), for every finite length (R78). -/
def execCksum (seed : Byte) (bytes : List Byte) (s : State) : Host.Outcome State Fault Refusal :=
  .next (s.pureResult (.cksum (computeChecksum seed bytes)))

/-- CKVFY seed, candidate, bytes (R72): a mismatch is a result, not an error. -/
def execCkvfy (seed candidate : Byte) (bytes : List Byte) (s : State) :
    Host.Outcome State Fault Refusal :=
  .next (s.pureResult (.ckvfy (verifyChecksum seed candidate bytes)))

end Sys2Proof.Machine
end

