-- ==== Sys2Proof/Machine/Control.lean ====
section
/-! DEFINITION. NOP and RESET (spec 70_reset_and_hazards.md R145, R146). -/

namespace Sys2Proof.Machine

/-- NOP (R146): no state change, no action, no result. -/
def execNop (s : State) : Host.Outcome State Fault Refusal := .next s.begin

/-- RESET (R145, R22): IDLE, CUR 0, BRK_DETECTED 0, armed with one RX_ARM. BUF is not written. -/
def execReset (s : State) : Host.Outcome State Fault Refusal :=
  .next { s.begin with receiving := false, cur := 0#4, brkDetected := false }.arm

end Sys2Proof.Machine
end

