-- ==== Sys2Proof/Machine/Flags.lean ====
section
/-! DEFINITION. The conditions and the status word computed from the state (spec 10_state.md R16, R19). The block has
no arithmetic condition codes (R16). -/

namespace Sys2Proof.Machine

/-- COMPLETE: RECEIVING = 1 and CUR ≥ 9, computed and not stored (R16, R95). -/
def State.complete (s : State) : Bool := s.receiving && decide (Config.frameLen ≤ s.cur.toNat)

/-- STATUS, the read-only view of the state (R19): 3:0 CUR, 4 RECEIVING, 5 COMPLETE, 6 BRK_DETECTED, 7 RX_ARMED. -/
def State.status (s : State) : Byte :=
  BitVec.ofBool s.rxArmed ++ BitVec.ofBool s.brkDetected ++ BitVec.ofBool s.complete
    ++ BitVec.ofBool s.receiving ++ s.cur

end Sys2Proof.Machine
end

