-- ==== Sys2Proof/WellFormed.lean ====
section
/-! DEFINITION. Which operations a command can carry (spec 30_encoding.md R45, R47 (b)). The one check: the `len`
byte of formats C and V counts 0 to 255 sequence bytes. The operations themselves are defined for every length
(spec 41_checksum_codec.md R78). -/

namespace Sys2Proof

/-- A byte sequence whose length a `len` byte can hold (R47 (b)). -/
def fitsLen (bytes : List Byte) : Bool := decide (bytes.length ≤ 255)

/-- The operation can be presented as a command (R45, R47). -/
def Instr.wellFormed : Instr → Bool
  | .nop => true
  | .reset => true
  | .parity _ => true
  | .encpid _ => true
  | .decpid _ => true
  | .cksum _ bytes => fitsLen bytes
  | .ckvfy _ _ bytes => fitsLen bytes
  | .send _ _ => true
  | .brk => true
  | .rxb _ => true
  | .poll => true

end Sys2Proof
end

