-- ==== Sys2Proof/Decode.lean ====
section
/-! DEFINITION. The command decoder (total, rejecting by name) and the encoder, both from the format and opcode tables
of spec 30_encoding.md (R45 to R50), and the words of the opcode table laid out as command bytes. -/

namespace Sys2Proof

/-- The opcode byte of each operation, the table of R46 read left to right. -/
def Op.code : Op → Byte
  | .nop => 0x00#8
  | .reset => 0x01#8
  | .parity => 0x10#8
  | .encpid => 0x11#8
  | .decpid => 0x12#8
  | .cksum => 0x20#8
  | .ckvfy => 0x21#8
  | .send => 0x30#8
  | .brk => 0x40#8
  | .rxb => 0x41#8
  | .poll => 0x42#8

/-- The operation a first byte selects (R45: mask 0xFF), and none for a reserved one (R49). -/
def Op.ofByte? (b : Byte) : Option Op :=
  if b = 0x00#8 then some .nop
  else if b = 0x01#8 then some .reset
  else if b = 0x10#8 then some .parity
  else if b = 0x11#8 then some .encpid
  else if b = 0x12#8 then some .decpid
  else if b = 0x20#8 then some .cksum
  else if b = 0x21#8 then some .ckvfy
  else if b = 0x30#8 then some .send
  else if b = 0x40#8 then some .brk
  else if b = 0x41#8 then some .rxb
  else if b = 0x42#8 then some .poll
  else none

/-- The opcode an operation is presented under. -/
def Instr.op : Instr → Op
  | .nop => .nop
  | .reset => .reset
  | .parity _ => .parity
  | .encpid _ => .encpid
  | .decpid _ => .decpid
  | .cksum _ _ => .cksum
  | .ckvfy _ _ _ => .ckvfy
  | .send _ _ => .send
  | .brk => .brk
  | .rxb _ => .rxb
  | .poll => .poll

/-- The total length of a command in bytes (R46). -/
def Instr.commandLength : Instr → Nat
  | .nop => 1
  | .reset => 1
  | .parity _ => 2
  | .encpid _ => 2
  | .decpid _ => 2
  | .cksum _ bytes => 3 + bytes.length
  | .ckvfy _ _ bytes => 4 + bytes.length
  | .send _ _ => 7
  | .brk => 1
  | .rxb _ => 2
  | .poll => 1

/-- An identifier operand byte: bits 5:0, and refused unless bits 7:6 are 0 (R47 (a), R50). -/
def identOperand (b : Byte) : Except Reject Ident :=
  if b.extractLsb' 6 2 = 0#2 then .ok (b.extractLsb' 0 6) else .error (.identifierRange b)

/-- The five data bytes, data_0 first (R47 (c)). -/
def Payload.bytes (d : Payload) : List Byte := [d.d0, d.d1, d.d2, d.d3, d.d4]

/-- The sequence bytes a `len` byte counts (R47 (b)) and the bytes after them, if that many stand there. -/
def splitBytes : Nat → List Byte → Option (List Byte × List Byte)
  | 0, rest => some ([], rest)
  | _ + 1, [] => none
  | n + 1, b :: rest => (splitBytes n rest).map fun p => (b :: p.1, p.2)

/-- The operands of a command after its opcode, in the formats Z, B, C, V and F of R45, with the bytes left over. A
command whose bytes do not all stand there is incomplete, whatever else is wrong with it (log 17). -/
def decodeOperands : Op → List Byte → Except Reject (Instr × List Byte)
  | .nop, rest => .ok (.nop, rest)
  | .reset, rest => .ok (.reset, rest)
  | .brk, rest => .ok (.brk, rest)
  | .poll, rest => .ok (.poll, rest)
  | .parity, b :: rest => (identOperand b).map fun id => (.parity id, rest)
  | .encpid, b :: rest => (identOperand b).map fun id => (.encpid id, rest)
  | .decpid, b :: rest => .ok (.decpid b, rest)
  | .rxb, b :: rest => .ok (.rxb b, rest)
  | .cksum, seed :: len :: rest =>
    match splitBytes len.toNat rest with
    | some (bytes, rest') => .ok (.cksum seed bytes, rest')
    | none => .error .incomplete
  | .ckvfy, seed :: candidate :: len :: rest =>
    match splitBytes len.toNat rest with
    | some (bytes, rest') => .ok (.ckvfy seed candidate bytes, rest')
    | none => .error .incomplete
  | .send, b :: d0 :: d1 :: d2 :: d3 :: d4 :: rest =>
    (identOperand b).map fun id => (.send id ⟨d0, d1, d2, d3, d4⟩, rest)
  | _, _ => .error .incomplete

/-- The first command of a byte stream and the bytes after it: the first byte selects the operation, and the length
follows from it and from the `len` byte (R45, R48, R49). -/
def decode : List Byte → Except Reject (Instr × List Byte)
  | [] => .error .incomplete
  | b :: rest =>
    match Op.ofByte? b with
    | some op => decodeOperands op rest
    | none => .error (.reservedOpcode b)

/-- The operand bytes of a command (R45, R47). -/
def Instr.operandBytes : Instr → List Byte
  | .nop => []
  | .reset => []
  | .parity id => [id.setWidth 8]
  | .encpid id => [id.setWidth 8]
  | .decpid pid => [pid]
  | .cksum seed bytes => seed :: BitVec.ofNat 8 bytes.length :: bytes
  | .ckvfy seed candidate bytes => seed :: candidate :: BitVec.ofNat 8 bytes.length :: bytes
  | .send id data => id.setWidth 8 :: data.bytes
  | .brk => []
  | .rxb b => [b]
  | .poll => []

/-- The command bytes of an operation (R45, R46). They carry a well-formed operation whole. -/
def encode (i : Instr) : List Byte := i.op.code :: i.operandBytes

/-- The longest command: CKVFY with a `len` byte of 255, 4 + 255 bytes (R46). -/
def longestCommand : Nat := 259

/-- The low bytes of a number, lowest first. -/
def lowBytes : Nat → Nat → List Byte
  | 0, _ => []
  | n + 1, w => BitVec.ofNat 8 w :: lowBytes n (w / 256)

/-- A word of spec/opcode_table.json as command bytes: bits 7..0 are the first byte of the command, bits 15..8 the
second, and so on; every bit from `nbits` on is 0, up to the longest command. Log 15. -/
def tableBytes (nbits w : Nat) : List Byte := lowBytes longestCommand (w % 2 ^ nbits)

/-- The operation the decoder reads from a word of the opcode table. -/
def decodeTableWord (nbits w : Nat) : Option Instr :=
  match decode (tableBytes nbits w) with
  | .ok (i, _) => some i
  | .error _ => none

end Sys2Proof
end

