-- ==== Sys2Proof/Machine/Operands.lean ====
section
/-! DEFINITION. Where the fields of a PID byte and of the nine-byte frame stand (spec 30_encoding.md R40, R41; spec
20_memory.md R26), for reading them out of the buffer and for laying them out on the wire. -/

namespace Sys2Proof.Machine

/-- PID bits 5:0, the identifier (R40, R62). -/
def pidIdent (pid : Byte) : Ident := pid.extractLsb' 0 6

/-- PID bits 7:6, the parity field: p0 at bit 6, p1 at bit 7 (R40). -/
def pidParity (pid : Byte) : ParityBits := pid.extractLsb' 6 2

/-- `zext_8(id) | (zext_8(parity) << 6)` (R47 (d), R61). -/
def pidOf (id : Ident) (parity : ParityBits) : Byte := id.setWidth 8 ||| (parity.setWidth 8 <<< 6)

/-- The index of the sync byte (R26). -/
abbrev syncIndex : Nat := 1

/-- The index of the PID byte (R26). -/
abbrev pidIndex : Nat := 2

/-- The index of data_k: 3 to 2 + N_DATA (R26). -/
abbrev dataIndex (k : Nat) : Nat := 3 + k

/-- The index of the checksum byte: 3 + N_DATA (R26). -/
abbrev ckIndex : Nat := 8

/-- BUF[3..7] (R99). -/
def bufData (m : Memory) : Payload :=
  ⟨m.read (dataIndex 0), m.read (dataIndex 1), m.read (dataIndex 2), m.read (dataIndex 3),
    m.read (dataIndex 4)⟩

/-- The sync, PID, data and checksum fields of a completed buffer (R99). BUF[0] is not among them (R31). -/
def bufFrame (m : Memory) : Frame :=
  ⟨m.read syncIndex, m.read pidIndex, bufData m, m.read ckIndex⟩

/-- The nine bytes of a frame in wire order: `[0x00][sync][PID][data][checksum]` (R41, R88). -/
def Frame.wire (f : Frame) : List Byte :=
  Config.breakPad :: f.sync :: f.pid :: (f.data.bytes ++ [f.ck])

end Sys2Proof.Machine
end

