-- ==== Sys2Proof/Machine/FrameDecoder.lean ====
section
/-! DEFINITION. The frame decoder (spec 43_frame_decoder.md): BRK, RXB, POLL and the validation inside POLL. -/

namespace Sys2Proof.Machine

/-- BRK (R96): ASSEMBLING with CUR 0 from any state, the break recorded, reception armed. BUF is not written. -/
def execBrk (s : State) : Host.Outcome State Fault Refusal :=
  .next { s.begin with receiving := true, cur := 0#4, brkDetected := true }.arm

/-- The re-arm after a store: while the new cursor is below 9 (R97, R101). -/
def State.rearmBelowFrame (s : State) : State := if s.cur.toNat < Config.frameLen then s.arm else s

/-- The effect of a delivered byte (R97): stored while ASSEMBLING, discarded in IDLE. -/
def deliverByte (b : Byte) (s : State) : Host.Outcome State Fault Refusal :=
  if s.receiving then
    match s.storeByte b with
    | some s' => .next s'.rearmBelowFrame
    | none => .fault (.bufferIndex s.cur)
  else .next s.arm

/-- RXB byte (R97): dropped while no request is outstanding (R30); otherwise the delivery satisfies the request. -/
def execRxb (b : Byte) (s : State) : Host.Outcome State Fault Refusal :=
  if s.rxArmed then deliverByte b s.begin.deliver else .next s.begin

/-- VALIDATE (R99): sync first, then the checksum seeded with the PID as received (R80). PID parity, identifier and
BUF[0] are not looked at (R108). -/
def validate (m : Memory) : Except FrameError Frame :=
  let f := bufFrame m
  if f.sync ≠ Config.sync then .error (.sync f.sync)
  else
    let expected := computeChecksum f.pid f.data.bytes
    if f.ck = expected then .ok f else .error (.checksum f.ck expected)

/-- What POLL does with a complete frame (R98, R124): exactly one report, then IDLE and the re-arm. -/
def processFrame (s : State) : State :=
  match validate s.buf with
  | .ok f => s.acceptFrame f
  | .error e => s.raiseFrameError e

/-- POLL (R98): BRK_DETECTED is consumed; a complete frame is processed; otherwise the answer is `None`. One atomic
step (R32). -/
def execPoll (s : State) : Host.Outcome State Fault Refusal :=
  if s.complete then .next (processFrame s.begin.consumeBreak)
  else .next (s.begin.consumeBreak.answer (.poll .noFrame))

/-- DOC's `optional Frame` reading of a POLL result (R57). -/
def PollResult.frame? : PollResult → Option Frame
  | .noFrame => none
  | .rxOk f => some f
  | .syncErr _ => none
  | .ckErr _ _ => none

/-- The cause code of a POLL result: 1 and 2 for the errors, 0 for no error (decision D16). -/
def PollResult.cause : PollResult → Nat
  | .noFrame => 0
  | .rxOk _ => 0
  | .syncErr observed => (FrameError.sync observed).code
  | .ckErr received expected => (FrameError.checksum received expected).code

end Sys2Proof.Machine
end

