-- ==== Sys2Proof/Machine/PidCodec.lean ====
section
/-! DEFINITION. The PID codec (spec 40_pid_codec.md): PARITY, ENCPID, DECPID. -/

namespace Sys2Proof.Machine

/-- p0 = id0 ^ id1 ^ id2 ^ id4 (R60). -/
def parity0 (id : Ident) : Bool := ((id.getLsbD 0 ^^ id.getLsbD 1) ^^ id.getLsbD 2) ^^ id.getLsbD 4

/-- p1 = ~(id1 ^ id3 ^ id4 ^ id5) (R60). -/
def parity1 (id : Ident) : Bool := !(((id.getLsbD 1 ^^ id.getLsbD 3) ^^ id.getLsbD 4) ^^ id.getLsbD 5)

/-- `ComputeParity`: `(p1 << 1) | p0` (R60). -/
def computeParity (id : Ident) : ParityBits := BitVec.ofBool (parity1 id) ++ BitVec.ofBool (parity0 id)

/-- `EncodePID` (R61). -/
def encodePid (id : Ident) : Byte := pidOf id (computeParity id)

/-- The verdict of DECPID: the parity field equals the parity of the identifier field (R62). -/
def pidParityOk (pid : Byte) : Bool := pidParity pid == computeParity (pidIdent pid)

/-- PARITY id (R60). -/
def execParity (id : Ident) (s : State) : Host.Outcome State Fault Refusal :=
  .next (s.pureResult (.parity (computeParity id)))

/-- ENCPID id (R61). -/
def execEncpid (id : Ident) (s : State) : Host.Outcome State Fault Refusal :=
  .next (s.pureResult (.encpid (encodePid id)))

/-- DECPID pid (R62): a bad parity is a result, not an error. -/
def execDecpid (pid : Byte) (s : State) : Host.Outcome State Fault Refusal :=
  .next (s.pureResult (.decpid (pidIdent pid) (pidParityOk pid)))

end Sys2Proof.Machine
end

