-- ==== Sys2Proof/Machine/FrameEncoder.lean ====
section
/-! DEFINITION. The frame encoder (spec 42_frame_encoder.md): SEND. -/

namespace Sys2Proof.Machine

/-- The frame built from an identifier and a payload: PID by ENCPID, checksum over the data seeded with the PID
(R79, R85 steps 4 and 5). -/
def builtFrame (id : Ident) (data : Payload) : Frame where
  sync := Config.sync
  pid := encodePid id
  data := data
  ck := computeChecksum (encodePid id) data.bytes

/-- The eleven actions of a SEND in order: the break request, the nine bytes in wire order, the report (R85, R86,
R88, R90). -/
def sendActions (id : Ident) (data : Payload) : List Action :=
  .txBreak :: ((builtFrame id data).wire.map .txByte ++ [.reportSent (builtFrame id data)])

/-- SEND id, data (R85): one atomic operation (R89); it reads and writes no decoder state and never fails. -/
def execSend (id : Ident) (data : Payload) (s : State) : Host.Outcome State Fault Refusal :=
  .next { s.begin with actions := sendActions id data }

end Sys2Proof.Machine
end

