-- ==== Sys2Proof/Machine/Dispatch.lean ====
section
/-! DEFINITION. One arm per operation: its meaning. -/

namespace Sys2Proof.Machine

def exec (i : Instr) (s : State) : Host.Outcome State Fault Refusal :=
  match i with
  | .nop => Sys2Proof.Machine.execNop s
  | .reset => Sys2Proof.Machine.execReset s
  | .parity id => Sys2Proof.Machine.execParity id s
  | .encpid id => Sys2Proof.Machine.execEncpid id s
  | .decpid pid => Sys2Proof.Machine.execDecpid pid s
  | .cksum seed bytes => Sys2Proof.Machine.execCksum seed bytes s
  | .ckvfy seed candidate bytes => Sys2Proof.Machine.execCkvfy seed candidate bytes s
  | .send id data => Sys2Proof.Machine.execSend id data s
  | .brk => Sys2Proof.Machine.execBrk s
  | .rxb byte => Sys2Proof.Machine.execRxb byte s
  | .poll => Sys2Proof.Machine.execPoll s

end Sys2Proof.Machine
end

