-- ==== Sys2Proof/Machine/Fetch.lean ====
section
/-! DEFINITION. Which operation the next step performs (spec 30_encoding.md R45, spec 70_reset_and_hazards.md R146). -/

namespace Sys2Proof.Machine

/-- The first command on the port and the bytes after it. An empty port is the step in which the environment presents
no request, for which NOP stands (R146). Log 2. -/
def fetch : List Byte → Except Reject (Instr × List Byte)
  | [] => .ok (.nop, [])
  | b :: rest => decode (b :: rest)

end Sys2Proof.Machine
end

