-- ==== Sys2Proof/Machine/Step.lean ====
section
/-! DEFINITION. One step of the block: the next operation on the port, performed atomically (spec 00_scope.md R8, spec
20_memory.md R32). -/

namespace Sys2Proof.Machine

/-- One operation per step. Bytes that are no operation are refused (R49, R50). -/
def step (s : State) : Host.Outcome State Fault Refusal :=
  match fetch s.port with
  | .ok (i, rest) => exec i { s with port := rest }
  | .error why => .refused (.badCommand why)

/-- The state with a word of the opcode table presented on the command port, so that the next step performs it.
Log 15. -/
def State.withFetchWord (s : State) (nbits w : Nat) : State := { s with port := tableBytes nbits w }

end Sys2Proof.Machine
end

