-- ==== Sys2Proof/Machine/Environment.lean ====
section
/-! DEFINITION. How the environment drives the block: the input signals (spec 60_exceptions.md R127 to R135), the
order of coincident requests (R129), the contexts (R136) and the pseudo-operations (spec 30_encoding.md R56). -/

namespace Sys2Proof.Machine

/-- The state with operations presented behind what the port already holds, as command bytes in order (R23, R38). -/
def State.present (ops : List Instr) (s : State) : State := { s with port := s.port ++ ops.flatMap encode }

/-- The three input signals of the decoder (R132, R133, R135). -/
inductive Signal where
  /-- The break-detect signal. -/
  | breakDetected
  /-- The byte-received signal with its byte. -/
  | byteReceived (b : Byte)
  /-- The foreground poll. -/
  | foregroundPoll
deriving DecidableEq, Repr

/-- The operation a signal presents (R127, R128, R132, R133, R135); DOC's `OnBreakDetected()`, `OnByteReceived(b)`
and `PollCompletedFrame()` (R56). -/
def Signal.operation : Signal → Instr
  | .breakDetected => .brk
  | .byteReceived b => .rxb b
  | .foregroundPoll => .poll

/-- The requests the environment has to present at one instant (R129). -/
structure Requests where
  byte : Option Byte
  brk : Bool
  poll : Bool
deriving DecidableEq, Repr

/-- Coincident requests in the order they are presented: the byte, the break, the poll (R129, decision D14). Any other
order is a trace the environment may also present (U15). -/
def Requests.serialised (r : Requests) : List Signal :=
  (match r.byte with
    | some b => [.byteReceived b]
    | none => [])
  ++ (if r.brk then [.breakDetected] else []) ++ (if r.poll then [.foregroundPoll] else [])

/-- The two execution contexts of DOC's software (R136). -/
inductive Context where
  | interrupt
  | foreground
deriving DecidableEq, Repr

/-- The context that performs an operation (R136). The codec functions, RESET and NOP belong to neither. -/
def contextOf : Instr → Option Context
  | .nop => none
  | .reset => none
  | .parity _ => none
  | .encpid _ => none
  | .decpid _ => none
  | .cksum _ _ => none
  | .ckvfy _ _ _ => none
  | .send _ _ => some .foreground
  | .brk => some .interrupt
  | .rxb _ => some .interrupt
  | .poll => some .foreground

/-- FEED [b0 ... bk] (R56). -/
def feed (bytes : List Byte) : List Instr := bytes.map .rxb

/-- FRAME [b0 ... b8]: BRK, then FEED (R56). -/
def frameTrace (bytes : List Byte) : List Instr := .brk :: feed bytes

/-- The bytes a trace presents to the decoder, in order of presentation (R104, R128). -/
def receivedBytes : List Instr → List Byte
  | [] => []
  | i :: ops =>
    match i with
    | .rxb b => b :: receivedBytes ops
    | .nop => receivedBytes ops
    | .reset => receivedBytes ops
    | .parity _ => receivedBytes ops
    | .encpid _ => receivedBytes ops
    | .decpid _ => receivedBytes ops
    | .cksum _ _ => receivedBytes ops
    | .ckvfy _ _ _ => receivedBytes ops
    | .send _ _ => receivedBytes ops
    | .brk => receivedBytes ops
    | .poll => receivedBytes ops

/-- The decoder operation a transmit action becomes when it is replayed (R56, R93). -/
def Action.replay : Action → Option Instr
  | .txBreak => some .brk
  | .txByte b => some (.rxb b)
  | .rxArm => none
  | .reportSent _ => none
  | .reportRxOk _ => none
  | .reportSyncErr _ => none
  | .reportCkErr _ _ => none

/-- LOOPBACK id, data: the SEND, then its transmit actions replayed into the decoder (R56). -/
def loopback (id : Ident) (data : Payload) : List Instr :=
  .send id data :: (sendActions id data).filterMap Action.replay

/-- A trace performed one operation after the other, stopping at the first stop (R33, R38): what the steps of the block
amount to, without the command bytes. -/
def execAll : List Instr → State → Host.Outcome State Fault Refusal
  | [], s => .next s
  | i :: is, s =>
    match exec i s with
    | .next t => execAll is t
    | .fault r => .fault r
    | .refused r => .refused r

/-- What the caller of the encoder passes in this installation (R7, R92): identifier 1 and the open payload. -/
def instanceSend : Instr :=
  .send Config.instanceId
    ⟨Config.instancePayload 0, Config.instancePayload 1, Config.instancePayload 2,
      Config.instancePayload 3, Config.instancePayload 4⟩

end Sys2Proof.Machine
end

