-- ==== Sys2Proof/Safety.lean ====
section
/-! DEFINITION. What counts as a good state and a safe run, in the terms claims use (spec 10_state.md R13, R18). -/

namespace Sys2Proof.Machine

/-- The invariants I-1, I-2 and I-3 of R18, and the canonical form of BUF. -/
abbrev State.Inv (s : State) : Prop :=
  s.cur.toNat ≤ 9
  ∧ (s.receiving = false → s.cur = 0#4)
  ∧ (s.rxArmed = false ↔ (s.receiving = true ∧ s.cur = 9#4))
  ∧ s.buf.wf = true

/-- An operation completes with a result, without an action, changing nothing else: the shape of the pure operations
(R21, R44). -/
abbrev Returns (i : Instr) (s : State) (r : Result) : Prop :=
  exec i s = .next { s with actions := [], result := some r }

/-- The states of a run: from reset, the environment presenting any bytes at any time, the block taking steps. -/
inductive Reachable : State → Prop where
  | reset : Reachable State.reset
  | present (s : State) (bytes : List Byte) : Reachable s → Reachable { s with port := s.port ++ bytes }
  | step (s t : State) : Reachable s → step s = .next t → Reachable t

/-- Two states that agree on every decoder register and on the bytes of BUF stored since the cursor was last set to 0,
and may differ in the other, stale bytes (R13) and in past outputs. -/
abbrev SameButStale (s t : State) : Prop :=
  s.cur = t.cur ∧ s.receiving = t.receiving ∧ s.brkDetected = t.brkDetected ∧ s.rxArmed = t.rxArmed
  ∧ s.port = t.port ∧ ∀ a : Nat, a < s.cur.toNat → s.buf.read a = t.buf.read a

/-- Two outcomes that no collaborator can tell apart: the same outputs and states that agree again, or the same
stop. -/
def OutcomesAlike : Host.Outcome State Fault Refusal → Host.Outcome State Fault Refusal → Prop
  | .next s, .next t => SameButStale s t ∧ s.actions = t.actions ∧ s.result = t.result
  | .fault a, .fault b => a = b
  | .refused a, .refused b => a = b
  | _, _ => False

end Sys2Proof.Machine
end

