-- ==== Sys2Proof/Certificates/Slice0/Obligations.lean ====
section
/-! DEFINITION. The statements for the provers. An equation `exec i s = .next { s with … }` states the operation's
completion, its result and its frame at once: every field it does not name is that of `s`, BUF and the port included. -/

open Sys2Proof Sys2Proof.Machine

/-! ### Commands -/

/-- R45 to R48: the decoder reads every well-formed operation back from its command bytes, with every operand whole
and the bytes behind the command untouched. -/
def Obligations.DecodeReadsBackEveryCommand : Prop :=
  ∀ (i : Instr) (rest : List Byte), i.wellFormed = true → decode (encode i ++ rest) = .ok (i, rest)

/-- R45 to R48: each command has one meaning: whatever decodes is the encoding of a well-formed operation, so no bit of
a command is ignored. -/
def Obligations.DecodedBytesAreTheEncoding : Prop :=
  ∀ (bs : List Byte) (i : Instr) (rest : List Byte), decode bs = .ok (i, rest) →
    i.wellFormed = true ∧ bs = encode i ++ rest

/-- Commands as spec/95_test_vectors.md spells them byte by byte (V-PID-4, V-PID-18, V-CK-18, V-CK-22, V-ENC-1, P1 and
P5), one of each format and one of each family. -/
def Obligations.CommandBytesOfTheSpecDecode : Prop :=
  decode [0x00] = .ok (.nop, [])
  ∧ decode [0x01] = .ok (.reset, [])
  ∧ decode [0x10, 0x01] = .ok (.parity 1, [])
  ∧ decode [0x11, 0x3F] = .ok (.encpid 63, [])
  ∧ decode [0x12, 0x41] = .ok (.decpid 0x41, [])
  ∧ decode [0x20, 0xC1, 0x05, 0x48, 0x65, 0x6C, 0x6C, 0x6F]
      = .ok (.cksum 0xC1 [0x48, 0x65, 0x6C, 0x6C, 0x6F], [])
  ∧ decode [0x21, 0xC1, 0x49, 0x05, 0x48, 0x65, 0x6C, 0x6C, 0x6F]
      = .ok (.ckvfy 0xC1 0x49 [0x48, 0x65, 0x6C, 0x6C, 0x6F], [])
  ∧ decode [0x30, 0x01, 0x48, 0x65, 0x6C, 0x6C, 0x6F] = .ok (.send 1 ⟨0x48, 0x65, 0x6C, 0x6C, 0x6F⟩, [])
  ∧ decode [0x40, 0x41, 0x00] = .ok (.brk, [0x41, 0x00])
  ∧ decode [0x41, 0x55, 0x42] = .ok (.rxb 0x55, [0x42])
  ∧ decode [0x42, 0x42] = .ok (.poll, [0x42])

/-- R49: a first byte other than the eleven opcodes is refused, whatever follows it. -/
def Obligations.ReservedOpcodesAreRefused : Prop :=
  ∀ (s : State) (b : Byte) (rest : List Byte), s.port = b :: rest →
    b ∉ ([0x00, 0x01, 0x10, 0x11, 0x12, 0x20, 0x21, 0x30, 0x40, 0x41, 0x42] : List Byte) →
    step s = .refused (.badCommand (.reservedOpcode b))

/-- R50: a PARITY, ENCPID or SEND command whose identifier byte has bit 6 or bit 7 set is refused. -/
def Obligations.IdentifiersAboveSixtyThreeAreRefused : Prop :=
  ∀ (s : State) (b : Byte) (data : Payload) (rest : List Byte),
    (b.getLsbD 6 = true ∨ b.getLsbD 7 = true) →
    (s.port = 0x10 :: b :: rest ∨ s.port = 0x11 :: b :: rest
      ∨ s.port = 0x30 :: b :: data.d0 :: data.d1 :: data.d2 :: data.d3 :: data.d4 :: rest) →
    step s = .refused (.badCommand (.identifierRange b))

/-- THE MODEL'S CHOICE (log 7): a port that holds a proper part of a command, and at least its opcode, is refused by
name. -/
def Obligations.PartialCommandsAreRefused : Prop :=
  ∀ (s : State) (i : Instr) (missing : List Byte), i.wellFormed = true → missing ≠ [] → s.port ≠ [] →
    encode i = s.port ++ missing → step s = .refused (.badCommand .incomplete)

/-- THE MODEL'S CHOICE (log 1): operations not yet performed stand as command bytes on a port held in State, and a step
performs the one at its head, whole (R32), on the state with that command taken off. -/
def Obligations.StepPerformsTheDecodedOperation : Prop :=
  ∀ (s : State) (i : Instr) (rest : List Byte), decode s.port = .ok (i, rest) →
    step s = exec i { s with port := rest }

/-- R146 gives NOP for a step in which the environment presents no request; that an EMPTY PORT is that step is the
model's reading (log 2). -/
def Obligations.StepWithNothingPresentedIsNop : Prop :=
  ∀ s : State, s.port = [] → step s = .next { s with actions := [], result := none }

/-- On the port that is THE MODEL'S CHOICE (log 1; `State.present`): operations presented as command bytes are performed
one per step, in the order presented, each on the state the one before it left (spec/20_memory.md sections 5 and 6), and
the run is exactly the sequence of their meanings. -/
def Obligations.PresentedOperationsRunInOrder : Prop :=
  ∀ (ops : List Instr) (s : State), (∀ i ∈ ops, i.wellFormed = true) → s.port = [] →
    Host.Core.run core ops.length (s.present ops) = execAll ops s

/-! ### PID codec -/

/-- R60: the two parity bits, each the exclusive or of its listed identifier bits, p1 complemented. -/
def Obligations.ParityComputesTheListedBits : Prop :=
  ∀ (id : Ident) (s : State), ∃ p : ParityBits, Returns (.parity id) s (.parity p)
    ∧ p.getLsbD 0 = (id.getLsbD 0 ^^ (id.getLsbD 1 ^^ (id.getLsbD 2 ^^ id.getLsbD 4)))
    ∧ p.getLsbD 1 = !(id.getLsbD 1 ^^ (id.getLsbD 3 ^^ (id.getLsbD 4 ^^ id.getLsbD 5)))

/-- R61 with R40: bits 5:0 of the PID are the identifier, bit 6 is p0, bit 7 is p1; identifier 1 gives 0xC1; different
identifiers give different PIDs. -/
def Obligations.EncpidBuildsTheProtectedIdentifier : Prop :=
  ∀ (id : Ident) (s : State), ∃ (p : ParityBits) (pid : Byte),
    Returns (.parity id) s (.parity p) ∧ Returns (.encpid id) s (.encpid pid)
    ∧ (∀ k : Nat, k < 6 → pid.getLsbD k = id.getLsbD k)
    ∧ pid.getLsbD 6 = p.getLsbD 0 ∧ pid.getLsbD 7 = p.getLsbD 1
    ∧ (id = 1#6 → pid = 0xC1#8)
    ∧ ∀ other : Ident, Returns (.encpid other) s (.encpid pid) → other = id

/-- R62: DECPID returns bits 5:0 and whether the byte is the PID of that identifier; a bad parity is a result. -/
def Obligations.DecpidSplitsAndComparesParity : Prop :=
  ∀ (pid : Byte) (s : State), ∃ (id : Ident) (ok : Bool), Returns (.decpid pid) s (.decpid id ok)
    ∧ (∀ k : Nat, k < 6 → id.getLsbD k = pid.getLsbD k)
    ∧ (ok = true ↔ Returns (.parity id) s (.parity (pid.extractLsb' 6 2)))
    ∧ (ok = true ↔ ∃ j : Ident, Returns (.encpid j) s (.encpid pid))

/-- R63: decoding the PID of an identifier returns that identifier, parity good. -/
def Obligations.DecpidUndoesEncpid : Prop :=
  ∀ (id : Ident) (s : State), ∃ pid : Byte, Returns (.encpid id) s (.encpid pid)
    ∧ Returns (.decpid pid) s (.decpid id true)

/-- The 64 PIDs of the function table in spec/40_pid_codec.md (the spec's own enumeration), identifiers 0 to 63. -/
def Obligations.EncpidAgreesWithThePrintedTable : Prop :=
  ∀ (id : Ident) (s : State), Returns (.encpid id) s (.encpid
    ((([0x80, 0xC1, 0x42, 0x03, 0xC4, 0x85, 0x06, 0x47, 0x08, 0x49, 0xCA, 0x8B, 0x4C, 0x0D, 0x8E, 0xCF]
      ++ [0x50, 0x11, 0x92, 0xD3, 0x14, 0x55, 0xD6, 0x97, 0xD8, 0x99, 0x1A, 0x5B, 0x9C, 0xDD, 0x5E, 0x1F]
      ++ [0x20, 0x61, 0xE2, 0xA3, 0x64, 0x25, 0xA6, 0xE7, 0xA8, 0xE9, 0x6A, 0x2B, 0xEC, 0xAD, 0x2E, 0x6F]
      ++ [0xF0, 0xB1, 0x32, 0x73, 0xB4, 0xF5, 0x76, 0x37, 0x78, 0x39, 0xBA, 0xFB, 0x3C, 0x7D, 0xFE, 0xBF])
      : List Byte).getD id.toNat 0))

/-- The spec's own inference in spec/40_pid_codec.md Properties (a) and (b): flipping any one bit of a valid PID makes
its parity bad; some flips of two bits go undetected. -/
def Obligations.PidParityDetectsEverySingleBitFlip : Prop :=
  ∀ (id : Ident) (s : State), ∃ pid : Byte, Returns (.encpid id) s (.encpid pid)
    ∧ (∀ k : Nat, k < 8 → ∃ j : Ident, Returns (.decpid (pid ^^^ (1#8 <<< k))) s (.decpid j false))
    ∧ (id = 0#6 → ∃ j : Ident, Returns (.decpid (pid ^^^ (1#8 <<< 0) ^^^ (1#8 <<< 6))) s (.decpid j true))

/-! ### Checksum codec -/

/-- R70, R71: the checksum of no bytes is the complement of the seed; one more byte is added to the running sum (255
less the checksum), and 255 is subtracted from a sum of 256 or more. -/
def Obligations.ChecksumIsTheEndAroundCarrySum : Prop :=
  ∀ (seed : Byte) (bytes : List Byte) (b : Byte) (s : State), ∃ c c' : Byte,
    Returns (.cksum seed []) s (.cksum (~~~seed))
    ∧ Returns (.cksum seed bytes) s (.cksum c)
    ∧ Returns (.cksum seed (bytes ++ [b])) s (.cksum c')
    ∧ ∀ t : Nat, t = (255 - c.toNat) + b.toNat → c'.toNat = 255 - (if 256 ≤ t then t - 255 else t)

/-- The closed form (c) of spec/41_checksum_codec.md's arithmetic laws: with T the sum of the seed and all bytes as a
natural number, the fold is 0 if T is 0, 255 if T is a positive multiple of 255, and T mod 255 otherwise. -/
def Obligations.ChecksumHasTheClosedForm : Prop :=
  ∀ (seed : Byte) (bytes : List Byte) (s : State), ∃ c : Byte, Returns (.cksum seed bytes) s (.cksum c)
    ∧ ∀ T : Nat, T = seed.toNat + (bytes.map BitVec.toNat).sum →
      255 - c.toNat = if T = 0 then 0 else if T % 255 = 0 then 255 else T % 255

/-- A consequence the spec draws from the closed form: the checksum does not depend on the order of the bytes, nor on
which of the values is called the seed. -/
def Obligations.ChecksumIgnoresByteOrder : Prop :=
  ∀ (seed seed' : Byte) (bytes bytes' : List Byte) (s : State), List.Perm (seed :: bytes) (seed' :: bytes') →
    ∃ c : Byte, Returns (.cksum seed bytes) s (.cksum c) ∧ Returns (.cksum seed' bytes') s (.cksum c)

/-- R72, R76: CKVFY recomputes the checksum and returns equality against the candidate; the checksum CKSUM computes
verifies. -/
def Obligations.CkvfyComparesWithTheRecomputedChecksum : Prop :=
  ∀ (seed candidate : Byte) (bytes : List Byte) (s : State), ∃ c : Byte,
    Returns (.cksum seed bytes) s (.cksum c)
    ∧ Returns (.ckvfy seed candidate bytes) s (.ckvfy (decide (c = candidate)))
    ∧ Returns (.ckvfy seed c bytes) s (.ckvfy true)

/-- The spec's own stronger fact beside R77: for every byte sequence, the empty one included, flipping any single bit of
the candidate or of the seed makes a verifying checksum fail, and so does flipping one of any byte of the sequence. -/
def Obligations.ChecksumDetectsEverySingleBitFlip : Prop :=
  ∀ (seed c : Byte) (bytes : List Byte) (k : Nat) (s : State), k < 8 →
    Returns (.cksum seed bytes) s (.cksum c) →
    Returns (.ckvfy seed (c ^^^ (1#8 <<< k)) bytes) s (.ckvfy false)
    ∧ Returns (.ckvfy (seed ^^^ (1#8 <<< k)) c bytes) s (.ckvfy false)
    ∧ ∀ (before after : List Byte) (b : Byte), bytes = before ++ b :: after →
        Returns (.ckvfy seed c (before ++ (b ^^^ (1#8 <<< k)) :: after)) s (.ckvfy false)

/-- The spec's own inference on reachable results: 0xFF exactly for all-zero input, 0x00 exactly for a positive total
that 255 divides, and every value is some checksum. -/
def Obligations.ChecksumReachesEveryValue : Prop :=
  (∀ (seed : Byte) (bytes : List Byte) (s : State), ∃ c : Byte, Returns (.cksum seed bytes) s (.cksum c)
    ∧ (c = 0xFF#8 ↔ seed = 0#8 ∧ ∀ b ∈ bytes, b = 0#8)
    ∧ (c = 0x00#8 ↔ 0 < seed.toNat + (bytes.map BitVec.toNat).sum
        ∧ 255 ∣ seed.toNat + (bytes.map BitVec.toNat).sum))
  ∧ ∀ (c : Byte) (s : State), ∃ seed : Byte, Returns (.cksum seed []) s (.cksum c)

/-- Errors the spec lists as not detected, beside reordering: 0x00 for 0xFF while some other value is not zero, and
adding to one byte what is taken from another. -/
def Obligations.ChecksumMissesTheListedErrors : Prop :=
  (∀ (seed : Byte) (before after : List Byte) (s : State),
    (seed ≠ 0#8 ∨ ∃ b ∈ before ++ after, b ≠ 0#8) →
    ∃ c : Byte, Returns (.cksum seed (before ++ 0x00#8 :: after)) s (.cksum c)
      ∧ Returns (.cksum seed (before ++ 0xFF#8 :: after)) s (.cksum c))
  ∧ ∀ (seed x y x' y' : Byte) (before mid after : List Byte) (s : State),
    x.toNat + y.toNat = x'.toNat + y'.toNat →
    ∃ c : Byte, Returns (.cksum seed (before ++ x :: mid ++ y :: after)) s (.cksum c)
      ∧ Returns (.cksum seed (before ++ x' :: mid ++ y' :: after)) s (.cksum c)

/-! ### Frame encoder -/

/-- R85, R86, R88, R90: SEND emits exactly eleven actions in this order and touches nothing else: no decoder state, no
`RX_ARM`, no result. -/
def Obligations.SendEmitsTheFrameInWireOrder : Prop :=
  ∀ (id : Ident) (data : Payload) (s : State), ∃ pid ck : Byte,
    Returns (.encpid id) s (.encpid pid)
    ∧ Returns (.cksum pid [data.d0, data.d1, data.d2, data.d3, data.d4]) s (.cksum ck)
    ∧ exec (.send id data) s = .next { s with
        actions := [.txBreak, .txByte 0x00, .txByte 0x55, .txByte pid, .txByte data.d0, .txByte data.d1,
          .txByte data.d2, .txByte data.d3, .txByte data.d4, .txByte ck, .reportSent ⟨0x55, pid, data, ck⟩]
        result := none }

/-- The end-to-end property of spec/42_frame_encoder.md: the transmit actions of a SEND, replayed as commands into a
decoder in ANY state, followed by a POLL, give the frame back with the PID and checksum the encoder computed. That the
replayed operations stand on a port which the steps take them from is THE MODEL'S CHOICE (log 1; `State.present`). -/
def Obligations.LoopbackDecodesEverySentFrame : Prop :=
  ∀ (id : Ident) (data : Payload) (s d : State), ∃ (pid ck : Byte) (t u : State),
    Returns (.encpid id) s (.encpid pid)
    ∧ Returns (.cksum pid [data.d0, data.d1, data.d2, data.d3, data.d4]) s (.cksum ck)
    ∧ exec (.send id data) s = .next t
    ∧ Host.Core.run core 11
        (State.present (t.actions.filterMap Action.replay ++ [.poll]) { d with port := [] }) = .next u
    ∧ u.result = some (.poll (.rxOk ⟨0x55, pid, data, ck⟩))
    ∧ u.actions = [.reportRxOk ⟨0x55, pid, data, ck⟩, .rxArm]

/-! ### Frame decoder: BRK and RXB -/

/-- R96: BRK from any state. -/
def Obligations.BrkRestartsAssembly : Prop :=
  ∀ s : State, exec .brk s = .next { s with
    receiving := true, cur := 0#4, brkDetected := true, rxArmed := true, actions := [.rxArm], result := none }

/-- R103: a break wins from any state: it cancels the assembly in progress without a report, and the next byte is
stored at index 0. -/
def Obligations.ByteAfterBreakIsStoredAtIndexZero : Prop :=
  ∀ (s : State) (b : Byte), ∃ t u : State, exec .brk s = .next t ∧ t.actions = [.rxArm]
    ∧ exec (.rxb b) t = .next u ∧ u.actions = [.rxArm] ∧ u.cur = 1#4 ∧ u.receiving = true
    ∧ u.buf.read 0 = b ∧ ∀ a : Nat, a ≠ 0 → u.buf.read a = s.buf.read a

/-- R97, R30: the three cases of a presented byte. Unarmed: dropped. In IDLE: discarded and re-armed. Assembling, at an
index that exists: stored at the cursor, the cursor advanced by one, re-armed while the new cursor is below 9; every
other byte of BUF, RECEIVING, BRK_DETECTED and the port are unchanged. -/
def Obligations.RxbStoresDiscardsOrDrops : Prop :=
  ∀ (s : State) (b : Byte),
    (s.rxArmed = false → exec (.rxb b) s = .next { s with actions := [], result := none })
    ∧ (s.rxArmed = true → s.receiving = false →
        exec (.rxb b) s = .next { s with actions := [.rxArm], result := none })
    ∧ (s.rxArmed = true → s.receiving = true → s.cur.toNat < 9 →
        ∃ t : State, exec (.rxb b) s = .next t
          ∧ t.buf.read s.cur.toNat = b
          ∧ (∀ a : Nat, a ≠ s.cur.toNat → t.buf.read a = s.buf.read a)
          ∧ t.cur.toNat = s.cur.toNat + 1
          ∧ t.receiving = true ∧ t.brkDetected = s.brkDetected ∧ t.port = s.port ∧ t.result = none
          ∧ (t.rxArmed = true ↔ t.cur.toNat < 9)
          ∧ t.actions = if t.cur.toNat < 9 then [.rxArm] else [])

/-- THE MODEL'S CHOICE (log 5) in states no run reaches: an armed RXB with a cursor of 9 or more would store at an
index that does not exist, and faults by name. -/
def Obligations.RxbFaultsBeyondTheBuffer : Prop :=
  ∀ (s : State) (b : Byte), s.rxArmed = true → s.receiving = true → 9 ≤ s.cur.toNat →
    exec (.rxb b) s = .fault (.bufferIndex s.cur)

/-- R102: any number of bytes in IDLE are consumed and change nothing; reception stays alive. -/
def Obligations.IdleConsumesAnyNumberOfBytes : Prop :=
  ∀ (bytes : List Byte) (s : State), s.receiving = false → s.rxArmed = true → bytes ≠ [] →
    execAll (feed bytes) s = .next { s with actions := [.rxArm], result := none }

/-- R104, and what I-4 of R18 says: after a break, whatever operations other than BRK and RESET follow in whatever
order, and as long as no POLL meets a complete frame, the k-th byte presented is stored at index k - 1 for k = 1..9 (one
beyond the ninth is dropped); the cursor counts the bytes stored, reception is armed until the ninth, bytes of BUF beyond
them keep their values, and BRK_DETECTED stays 1 until a POLL. -/
def Obligations.FrameBytesAreStoredInArrivalOrder : Prop :=
  ∀ (ops : List Instr) (s : State), (∀ i ∈ ops, i ≠ .brk ∧ i ≠ .reset) →
    (∀ before after : List Instr, ops = before ++ .poll :: after → (receivedBytes before).length < 9) →
    ∃ t : State, execAll (.brk :: ops) s = .next t
      ∧ t.cur.toNat = min (receivedBytes ops).length 9 ∧ t.receiving = true
      ∧ (t.rxArmed = true ↔ (receivedBytes ops).length < 9)
      ∧ (∀ k : Nat, k < (receivedBytes ops).length → k < 9 → t.buf.read k = (receivedBytes ops).getD k 0)
      ∧ (∀ a : Nat, (receivedBytes ops).length ≤ a ∨ 9 ≤ a → t.buf.read a = s.buf.read a)
      ∧ (t.brkDetected = true ↔ Instr.poll ∉ ops) ∧ t.port = s.port

/-! ### Frame decoder: POLL, its errors and its recovery -/

/-- R98: without a complete frame POLL answers `None`, and only BRK_DETECTED changes. -/
def Obligations.PollWithoutFrameAnswersNone : Prop :=
  ∀ s : State, ¬(s.receiving = true ∧ 9 ≤ s.cur.toNat) →
    exec .poll s = .next { s with brkDetected := false, actions := [], result := some (.poll .noFrame) }

/-- R98, R99: a complete frame with sync 0x55 and the checksum of its PID and data is reported and accepted, whatever
stands at index 0 and whatever the PID's parity. -/
def Obligations.PollAcceptsAGoodFrame : Prop :=
  ∀ s : State, s.receiving = true → 9 ≤ s.cur.toNat → s.buf.read 1 = 0x55 →
    Returns (.cksum (s.buf.read 2)
      [s.buf.read 3, s.buf.read 4, s.buf.read 5, s.buf.read 6, s.buf.read 7]) s (.cksum (s.buf.read 8)) →
    ∀ f : Frame, f = ⟨0x55, s.buf.read 2,
        ⟨s.buf.read 3, s.buf.read 4, s.buf.read 5, s.buf.read 6, s.buf.read 7⟩, s.buf.read 8⟩ →
      exec .poll s = .next { s with
        receiving := false, cur := 0#4, brkDetected := false, rxArmed := true
        actions := [.reportRxOk f, .rxArm], result := some (.poll (.rxOk f)) }

/-- R120, R123: a wrong sync byte is SyncError, cause 1, with the observed byte, whatever the checksum. -/
def Obligations.PollRaisesSyncError : Prop :=
  ∀ s : State, s.receiving = true → 9 ≤ s.cur.toNat → s.buf.read 1 ≠ 0x55 →
    exec .poll s = .next { s with
      receiving := false, cur := 0#4, brkDetected := false, rxArmed := true
      actions := [.reportSyncErr (s.buf.read 1), .rxArm]
      result := some (.poll (.syncErr (s.buf.read 1))) }
    ∧ (PollResult.syncErr (s.buf.read 1)).cause = 1

/-- R121: a good sync byte and a checksum other than the recomputed one is ChecksumError, cause 2, with the received
and the expected value. -/
def Obligations.PollRaisesChecksumError : Prop :=
  ∀ (s : State) (expected : Byte), s.receiving = true → 9 ≤ s.cur.toNat → s.buf.read 1 = 0x55 →
    Returns (.cksum (s.buf.read 2)
      [s.buf.read 3, s.buf.read 4, s.buf.read 5, s.buf.read 6, s.buf.read 7]) s (.cksum expected) →
    s.buf.read 8 ≠ expected →
    exec .poll s = .next { s with
      receiving := false, cur := 0#4, brkDetected := false, rxArmed := true
      actions := [.reportCkErr (s.buf.read 8) expected, .rxArm]
      result := some (.poll (.ckErr (s.buf.read 8) expected)) }
    ∧ (PollResult.ckErr (s.buf.read 8) expected).cause = 2

/-- R124, R109: whatever the nine bytes, POLL of a complete frame emits exactly one report and then `RX_ARM`, returns
something other than `None`, and leaves the same decoder state for a good frame and for an error; BUF is kept. -/
def Obligations.PollRecoversAlikeFromEveryOutcome : Prop :=
  ∀ s : State, s.receiving = true → 9 ≤ s.cur.toNat → ∃ (report : Action) (r : PollResult),
    exec .poll s = .next { s with
      receiving := false, cur := 0#4, brkDetected := false, rxArmed := true
      actions := [report, .rxArm], result := some (.poll r) }
    ∧ ((∃ f : Frame, report = .reportRxOk f ∧ r = .rxOk f)
      ∨ (∃ observed : Byte, report = .reportSyncErr observed ∧ r = .syncErr observed)
      ∨ ∃ received expected : Byte, report = .reportCkErr received expected ∧ r = .ckErr received expected)

/-- R122 (that nothing else raises an error): the two frame errors are results of POLL on a complete frame only. -/
def Obligations.FrameErrorsAreRaisedByPollOnly : Prop :=
  ∀ (s t : State) (i : Instr) (r : PollResult), exec i s = .next t → t.result = some (.poll r) → r.cause ≠ 0 →
    i = .poll ∧ s.complete = true ∧ (r.cause = 1 ↔ s.buf.read 1 ≠ 0x55) ∧ (r.cause = 2 ↔ s.buf.read 1 = 0x55)

/-- The spec's own inference beside R98: every frame is reported at the first POLL after its ninth byte and only there:
whatever a POLL did, the next one answers `None` and reports nothing. -/
def Obligations.EachFrameIsReportedOnce : Prop :=
  ∀ s : State, s.complete = true → ∃ t : State, exec .poll s = .next t ∧ t.result ≠ some (.poll .noFrame)
    ∧ exec .poll t = .next { t with actions := [], result := some (.poll .noFrame) }

/-- R105: a complete frame that is not polled before the next break is lost: after BRK, POLL answers `None` and
neither operation reports anything. -/
def Obligations.UnpolledFrameIsLostToABreak : Prop :=
  ∀ s : State, s.complete = true → ∃ t u : State, exec .brk s = .next t ∧ t.actions = [.rxArm]
    ∧ t.receiving = true ∧ t.cur = 0#4 ∧ t.rxArmed = true
    ∧ exec .poll t = .next u ∧ u.result = some (.poll .noFrame) ∧ u.actions = []

/-- R107: no operation but BRK and RESET leaves an unfinished assembly: all others complete, keep ASSEMBLING and never
lower the cursor. -/
def Obligations.StalledAssemblyWaitsForABreak : Prop :=
  ∀ (s : State) (i : Instr), s.receiving = true → s.cur.toNat < 9 → i ≠ .brk → i ≠ .reset →
    ∃ t : State, exec i s = .next t ∧ t.receiving = true ∧ s.cur.toNat ≤ t.cur.toNat
      ∧ ∀ f : Frame, Action.reportRxOk f ∉ t.actions

/-- R80: the receiver seeds with the PID byte as received: after a break and the nine bytes of a frame, any PID byte
whatever its parity, and any byte at index 0, is accepted with the checksum computed over it. -/
def Obligations.AnyPidByteWithItsChecksumIsAccepted : Prop :=
  ∀ (s : State) (b0 pid : Byte) (data : Payload), ∃ (ck : Byte) (t : State),
    Returns (.cksum pid [data.d0, data.d1, data.d2, data.d3, data.d4]) s (.cksum ck)
    ∧ execAll (frameTrace [b0, 0x55, pid, data.d0, data.d1, data.d2, data.d3, data.d4, ck] ++ [.poll]) s
        = .next t
    ∧ t.result = some (.poll (.rxOk ⟨0x55, pid, data, ck⟩))

/-- The spec's own inference beside R99: BUF[0] is never read: POLL's outputs do not depend on it. -/
def Obligations.PollNeverReadsThePlaceholder : Prop :=
  ∀ (s : State) (b : Byte), ∃ t u : State, exec .poll s = .next t
    ∧ exec .poll { s with buf := s.buf.write 0 b } = .next u
    ∧ u.actions = t.actions ∧ u.result = t.result ∧ u.buf.read 0 = b

/-! ### Rules about the whole block -/

/-- R101: every operation of the decoder ends with reception armed, except the RXB that stores the ninth byte;
reception then stays unarmed, an RXB dropped, until a POLL or a BRK (or RESET): no other operation arms it again. -/
def Obligations.ReceptionIsArmedUnlessAFrameIsComplete : Prop :=
  (∀ (s : State) (i : Instr), s.Inv → (i = .reset ∨ i = .brk ∨ i = .poll ∨ ∃ b : Byte, i = .rxb b) →
    ∃ t : State, exec i s = .next t
      ∧ (t.rxArmed = false ↔ (∃ b : Byte, i = .rxb b) ∧ s.receiving = true ∧ 8 ≤ s.cur.toNat))
  ∧ ∀ (s t : State) (i : Instr), exec i s = .next t → s.rxArmed = false → t.rxArmed = true →
    i = .reset ∨ i = .brk ∨ i = .poll

/-- R130, R131, R134: the transmit sink is used by SEND only, the receive-arm primitive by RESET, BRK, RXB and POLL
only, each report by its own operation; an `RX_ARM` leaves reception armed and is the last action, emitted once. -/
def Obligations.EachCollaboratorIsUsedByItsOperationsOnly : Prop :=
  ∀ (s t : State) (i : Instr) (a : Action), exec i s = .next t → a ∈ t.actions →
    match a with
    | .txBreak => ∃ id data, i = .send id data
    | .txByte _ => ∃ id data, i = .send id data
    | .reportSent _ => ∃ id data, i = .send id data
    | .reportRxOk _ => i = .poll
    | .reportSyncErr _ => i = .poll
    | .reportCkErr _ _ => i = .poll
    | .rxArm => (i = .reset ∨ i = .brk ∨ i = .poll ∨ ∃ b : Byte, i = .rxb b)
        ∧ t.rxArmed = true ∧ t.actions.count .rxArm = 1 ∧ t.actions.getLast? = some .rxArm

/-- R12 (its sentence on writes): the only write to BUF is RXB's store at the cursor, while RECEIVING = 1. -/
def Obligations.OnlyRxbWritesTheBuffer : Prop :=
  ∀ (s t : State) (i : Instr) (a : Nat), exec i s = .next t → t.buf.read a ≠ s.buf.read a →
    a = s.cur.toNat ∧ s.receiving = true ∧ ∃ b : Byte, i = .rxb b ∧ t.buf.read a = b

/-- R14 (that nothing else changes CUR): where CUR changes, it is by BRK, RESET or a POLL that finds a complete frame, to
0, or by an RXB while RECEIVING = 1, by exactly 1. -/
def Obligations.OnlyTheListedOperationsMoveTheCursor : Prop :=
  ∀ (s t : State) (i : Instr), exec i s = .next t → t.cur ≠ s.cur →
    (t.cur = 0#4 ∧ (i = .brk ∨ i = .reset ∨ (i = .poll ∧ s.complete = true)))
    ∨ (t.cur.toNat = s.cur.toNat + 1 ∧ s.receiving = true ∧ ∃ b : Byte, i = .rxb b)

/-- R15: BRK sets BRK_DETECTED; POLL clears it, complete frame or not; RESET clears it; nothing else writes it; no
transition and no output depends on it; it is visible on the status word. -/
def Obligations.BreakFlagIsSetByBrkAndClearedByPoll : Prop :=
  (∀ (s t : State) (i : Instr), exec i s = .next t →
    t.brkDetected = (if i = .brk then true else if i = .poll ∨ i = .reset then false else s.brkDetected))
  ∧ ∀ (s t : State) (i : Instr) (v : Bool), exec i s = .next t →
    (∃ u : State, exec i { s with brkDetected := v } = .next u
      ∧ { u with brkDetected := t.brkDetected } = t)
    ∧ t.status.getLsbD 6 = t.brkDetected

/-- R16: RECEIVING is set to 1 only by BRK, and cleared to 0 only by a POLL that finds a complete frame and by
RESET. -/
def Obligations.OnlyBrkStartsAndOnlyPollOrResetEndsAssembly : Prop :=
  ∀ (s t : State) (i : Instr), exec i s = .next t →
    (s.receiving = false → t.receiving = true → i = .brk)
    ∧ (s.receiving = true → t.receiving = false → i = .reset ∨ (i = .poll ∧ s.complete = true))

/-- R136 with the writer table of spec/10_state.md section 8: interrupt-context operations never clear a flag;
foreground operations never set one, never disarm reception and never write BUF. -/
def Obligations.ContextsKeepToTheirWritePermissions : Prop :=
  ∀ (s t : State) (i : Instr), exec i s = .next t →
    (contextOf i = some .interrupt →
      (s.receiving = true → t.receiving = true) ∧ (s.brkDetected = true → t.brkDetected = true))
    ∧ (contextOf i = some .foreground →
      (t.receiving = true → s.receiving = true) ∧ (t.brkDetected = true → s.brkDetected = true)
      ∧ (s.rxArmed = true → t.rxArmed = true) ∧ ∀ a : Nat, t.buf.read a = s.buf.read a)

/-- R20, R21: the codec operations and SEND read and write no state: in any two states they complete with the same
actions and the same result, and change nothing else. -/
def Obligations.CodecsAndEncoderHoldNoState : Prop :=
  ∀ (i : Instr) (s s' : State),
    ((∃ id, i = .parity id) ∨ (∃ id, i = .encpid id) ∨ (∃ pid, i = .decpid pid)
      ∨ (∃ seed bytes, i = .cksum seed bytes) ∨ (∃ seed candidate bytes, i = .ckvfy seed candidate bytes)
      ∨ ∃ id data, i = .send id data) →
    ∃ (acts : List Action) (res : Option Result),
      exec i s = .next { s with actions := acts, result := res }
      ∧ exec i s' = .next { s' with actions := acts, result := res }

/-- R146: NOP: no state is written, no action is emitted, no result is returned. -/
def Obligations.NopChangesNothing : Prop :=
  ∀ s : State, exec .nop s = .next { s with actions := [], result := none }

/-- R145: RESET from any state: IDLE, CUR 0, BRK_DETECTED 0, armed, one `RX_ARM`; BUF is not written; the invariants
hold after it. -/
def Obligations.ResetPutsTheDecoderInIdle : Prop :=
  ∀ s : State, ∃ t : State, exec .reset s = .next t
    ∧ t = { s with
        receiving := false, cur := 0#4, brkDetected := false, rxArmed := true
        actions := [.rxArm], result := none }
    ∧ (s.buf.wf = true → t.Inv)

/-- The reset values the spec's table gives (RECEIVING, CUR, BRK_DETECTED, RX_ARMED; STATUS 0x80), and that
RESET leaves `State.reset` as it is. That a run starts in the state right after RESET, whose outputs are RESET's, is
R147's starting convention as the model reads it (DEDUCED, log 9); that the port is empty there is THE MODEL'S CHOICE
(log 1). -/
def Obligations.ResetStateHasTheStatedValues : Prop :=
  State.reset.receiving = false ∧ State.reset.cur = 0#4 ∧ State.reset.brkDetected = false
  ∧ State.reset.rxArmed = true ∧ State.reset.status = 0x80#8 ∧ State.reset.port = []
  ∧ exec .reset State.reset = .next State.reset

/-- R19: the fields of STATUS, bit by bit, in every state. -/
def Obligations.StatusWordShowsTheState : Prop :=
  ∀ s : State, (∀ k : Nat, k < 4 → s.status.getLsbD k = s.cur.getLsbD k)
    ∧ s.status.getLsbD 4 = s.receiving
    ∧ (s.status.getLsbD 5 = true ↔ s.receiving = true ∧ 9 ≤ s.cur.toNat)
    ∧ s.status.getLsbD 6 = s.brkDetected
    ∧ s.status.getLsbD 7 = s.rxArmed

/-- R129: coincident requests are presented byte, then break, then poll, so the break is the last word on the cursor: a
byte that ties with a break is abandoned (a ninth byte with its whole frame), and a poll at the same instant answers
`None`. -/
def Obligations.CoincidentRequestsAreByteBreakPoll : Prop :=
  (∀ (byte : Option Byte) (brk poll : Bool),
    (Requests.serialised ⟨byte, brk, poll⟩).map Signal.operation
      = byte.toList.map .rxb ++ (if brk then [.brk] else []) ++ (if poll then [.poll] else []))
  ∧ ∀ (s : State) (b : Byte) (poll : Bool), s.Inv →
    ∃ t : State, execAll ((Requests.serialised ⟨some b, true, poll⟩).map Signal.operation) s = .next t
      ∧ t.receiving = true ∧ t.cur = 0#4 ∧ t.rxArmed = true
      ∧ (poll = true → t.result = some (.poll .noFrame) ∧ t.actions = [])

/-! ### Invariants -/

/-- I-1, I-2, I-3 of spec/10_state.md section 5 (the spec's own inference) and the canonical form of BUF hold at
reset. -/
def Obligations.ResetMeetsTheInvariant : Prop := State.reset.Inv

/-- Every step keeps I-1, I-2, I-3 and the canonical form of BUF, from every state that meets them. -/
def Obligations.StepKeepsTheInvariant : Prop :=
  ∀ s t : State, s.Inv → step s = .next t → t.Inv

/-- From every state that meets the invariant, no step faults: a byte is never stored outside BUF (the guarantee of
R29), whatever bytes stand on the port. -/
def Obligations.StepNeverStoresOutsideTheBuffer : Prop :=
  ∀ (s : State) (r : Fault), s.Inv → step s ≠ .fault r

/-- Every state of every run, whatever the environment presents and when, meets the invariant and does not fault. That
the environment presents by placing bytes on the port (`Reachable.present`) is THE MODEL'S CHOICE (log 1), and that runs
start at `State.reset` is R147's convention (log 9). -/
def Obligations.EveryReachableStateIsSafe : Prop :=
  ∀ s : State, Reachable s → s.Inv ∧ ∀ r : Fault, step s ≠ .fault r

/-- The spec's own inference in spec/10_state.md section 2: the bytes of BUF not stored since the cursor was last 0,
its reset contents among them, are unobservable: two states that differ only there, and in past outputs, take steps no
collaborator can tell apart, and differ only there again. So the model's choice of reset contents (log 4) decides no
output. -/
def Obligations.StaleBufferBytesAreUnobservable : Prop :=
  ∀ s t : State, SameButStale s t → OutcomesAlike (step s) (step t)
end

