-- ==== Sys2Proof/Laws/Checksum.lean ====
section
/-! SUPPORT. The end-around-carry sum in natural numbers (spec 41_checksum_codec.md R70, R73). -/

namespace Sys2Proof.Machine

/-- One step, exactly: no bit of the 9-bit addition is lost while the sum is a byte (R73). -/
theorem foldStep_toNat {s : Sum} (hs : s.toNat ≤ 255) (b : Byte) :
    (foldStep s b).toNat
      = if 256 ≤ s.toNat + b.toNat then s.toNat + b.toNat - 255 else s.toNat + b.toNat := by
  have hb := b.isLt
  have ht : (s + b.setWidth 9).toNat = s.toNat + b.toNat := by
    simp only [BitVec.toNat_add, BitVec.toNat_setWidth]
    omega
  simp only [foldStep, BitVec.le_def, ht]
  by_cases h : 256 ≤ s.toNat + b.toNat
  · rw [if_pos (by simpa using h), if_pos h, BitVec.toNat_sub, ht]
    simp only [BitVec.toNat_ofNat]
    omega
  · rw [if_neg (by simpa using h), if_neg h, ht]

theorem foldStep_le {s : Sum} (hs : s.toNat ≤ 255) (b : Byte) : (foldStep s b).toNat ≤ 255 := by
  have hb := b.isLt
  rw [foldStep_toNat hs]
  split <;> omega

@[simp] theorem checksumFold_nil (seed : Byte) : checksumFold seed [] = seed.setWidth 9 := rfl

theorem checksumFold_concat (seed : Byte) (bytes : List Byte) (b : Byte) :
    checksumFold seed (bytes ++ [b]) = foldStep (checksumFold seed bytes) b := by
  simp [checksumFold]

theorem foldl_foldStep_le {s : Sum} (hs : s.toNat ≤ 255) (bytes : List Byte) :
    (bytes.foldl foldStep s).toNat ≤ 255 := by
  induction bytes generalizing s with
  | nil => exact hs
  | cons b bytes ih => exact ih (foldStep_le hs b)

theorem seed_le (seed : Byte) : (seed.setWidth 9 : Sum).toNat ≤ 255 := by
  have := seed.isLt
  simp only [BitVec.toNat_setWidth]
  omega

/-- Every running sum is a byte (R73). -/
theorem checksumFold_le (seed : Byte) (bytes : List Byte) : (checksumFold seed bytes).toNat ≤ 255 :=
  foldl_foldStep_le (seed_le seed) bytes

/-- The checksum is 255 less the sum (R71). -/
theorem computeChecksum_toNat (seed : Byte) (bytes : List Byte) :
    (computeChecksum seed bytes).toNat = 255 - (checksumFold seed bytes).toNat := by
  have := checksumFold_le seed bytes
  simp only [computeChecksum, BitVec.toNat_not, BitVec.toNat_setWidth]
  omega

end Sys2Proof.Machine
end

