-- ==== Sys2Proof/Laws/Decode.lean ====
section
/-! SUPPORT. The small lemmas of the decoder and the encoder. -/

namespace Sys2Proof

theorem Op.ofByte?_code (op : Op) : Op.ofByte? op.code = some op := by cases op <;> decide

theorem Op.code_of_ofByte? {b : Byte} {op : Op} (h : Op.ofByte? b = some op) : b = op.code := by
  revert h
  unfold Op.ofByte?
  (repeat' split) <;> intro h <;> simp_all <;> subst h <;> rfl

theorem identOperand_setWidth (id : Ident) : identOperand (id.setWidth 8) = .ok id := by
  revert id; decide

theorem identOperand_ok {b : Byte} {id : Ident} (h : identOperand b = .ok id) : b = id.setWidth 8 := by
  have : ∀ b : Byte, b.extractLsb' 6 2 = 0#2 → b = (b.extractLsb' 0 6).setWidth 8 := by decide
  unfold identOperand at h
  split at h
  · next hb =>
    cases h
    exact this b hb
  · cases h

theorem identOperand_error {b : Byte} (h : 64 ≤ b.toNat) : identOperand b = .error (.identifierRange b) := by
  have : ∀ b : Byte, 64 ≤ b.toNat → b.extractLsb' 6 2 ≠ 0#2 := by decide
  simp [identOperand, this b h]

theorem splitBytes_append (bytes rest : List Byte) :
    splitBytes bytes.length (bytes ++ rest) = some (bytes, rest) := by
  induction bytes with
  | nil => rfl
  | cons b bytes ih => simp [splitBytes, ih]

theorem splitBytes_some {n : Nat} {bs bytes rest : List Byte} (h : splitBytes n bs = some (bytes, rest)) :
    bs = bytes ++ rest ∧ bytes.length = n := by
  induction n generalizing bs bytes with
  | zero =>
    cases h
    exact ⟨rfl, rfl⟩
  | succ n ih =>
    cases bs with
    | nil => cases h
    | cons b bs =>
      simp only [splitBytes, Option.map_eq_some_iff, Prod.mk.injEq] at h
      obtain ⟨⟨bytes', rest'⟩, h, rfl, rfl⟩ := h
      obtain ⟨rfl, hl⟩ := ih h
      exact ⟨rfl, by simp [hl]⟩

theorem splitBytes_none {n : Nat} {bs : List Byte} (h : bs.length < n) : splitBytes n bs = none := by
  induction n generalizing bs with
  | zero => omega
  | succ n ih =>
    cases bs with
    | nil => rfl
    | cons b bs => simp [splitBytes, ih (bs := bs) (by simpa using h)]

theorem lenByte_toNat {bytes : List Byte} (h : fitsLen bytes = true) :
    (BitVec.ofNat 8 bytes.length).toNat = bytes.length := by
  simp only [fitsLen, decide_eq_true_eq] at h
  simp only [BitVec.toNat_ofNat]
  omega

theorem decode_cons (b : Byte) (rest : List Byte) :
    decode (b :: rest) = match Op.ofByte? b with
      | some op => decodeOperands op rest
      | none => .error (.reservedOpcode b) := rfl

/-- Decoding by the selected operation (R45). -/
theorem decode_code (op : Op) (bs : List Byte) : decode (op.code :: bs) = decodeOperands op bs := by
  simp [decode, Op.ofByte?_code]

/-- A first byte outside the table is refused (R49). -/
theorem decode_reserved {b : Byte} (h : ∀ op : Op, b ≠ op.code) (bs : List Byte) :
    decode (b :: bs) = .error (.reservedOpcode b) := by
  cases hb : Op.ofByte? b with
  | none => simp [decode, hb]
  | some op => exact absurd (Op.code_of_ofByte? hb) (h op)

end Sys2Proof
end

