-- ==== Sys2Proof/Laws/State.lean ====
section
/-! SUPPORT. One lemma per field per update of the state, so that no proof unfolds a record update. -/

namespace Sys2Proof.Machine

@[simp] theorem State.begin_buf (s : State) : s.begin.buf = s.buf := rfl
@[simp] theorem State.begin_cur (s : State) : s.begin.cur = s.cur := rfl
@[simp] theorem State.begin_receiving (s : State) : s.begin.receiving = s.receiving := rfl
@[simp] theorem State.begin_brkDetected (s : State) : s.begin.brkDetected = s.brkDetected := rfl
@[simp] theorem State.begin_rxArmed (s : State) : s.begin.rxArmed = s.rxArmed := rfl
@[simp] theorem State.begin_port (s : State) : s.begin.port = s.port := rfl
@[simp] theorem State.begin_actions (s : State) : s.begin.actions = [] := rfl
@[simp] theorem State.begin_result (s : State) : s.begin.result = none := rfl

@[simp] theorem State.emit_buf (a : Action) (s : State) : (s.emit a).buf = s.buf := rfl
@[simp] theorem State.emit_cur (a : Action) (s : State) : (s.emit a).cur = s.cur := rfl
@[simp] theorem State.emit_receiving (a : Action) (s : State) : (s.emit a).receiving = s.receiving := rfl
@[simp] theorem State.emit_brkDetected (a : Action) (s : State) : (s.emit a).brkDetected = s.brkDetected := rfl
@[simp] theorem State.emit_rxArmed (a : Action) (s : State) : (s.emit a).rxArmed = s.rxArmed := rfl
@[simp] theorem State.emit_port (a : Action) (s : State) : (s.emit a).port = s.port := rfl
@[simp] theorem State.emit_actions (a : Action) (s : State) : (s.emit a).actions = s.actions ++ [a] := rfl
@[simp] theorem State.emit_result (a : Action) (s : State) : (s.emit a).result = s.result := rfl

@[simp] theorem State.answer_buf (r : Result) (s : State) : (s.answer r).buf = s.buf := rfl
@[simp] theorem State.answer_cur (r : Result) (s : State) : (s.answer r).cur = s.cur := rfl
@[simp] theorem State.answer_receiving (r : Result) (s : State) : (s.answer r).receiving = s.receiving := rfl
@[simp] theorem State.answer_brkDetected (r : Result) (s : State) : (s.answer r).brkDetected = s.brkDetected := rfl
@[simp] theorem State.answer_rxArmed (r : Result) (s : State) : (s.answer r).rxArmed = s.rxArmed := rfl
@[simp] theorem State.answer_port (r : Result) (s : State) : (s.answer r).port = s.port := rfl
@[simp] theorem State.answer_actions (r : Result) (s : State) : (s.answer r).actions = s.actions := rfl
@[simp] theorem State.answer_result (r : Result) (s : State) : (s.answer r).result = some r := rfl

@[simp] theorem State.pureResult_buf (r : Result) (s : State) : (s.pureResult r).buf = s.buf := rfl
@[simp] theorem State.pureResult_cur (r : Result) (s : State) : (s.pureResult r).cur = s.cur := rfl
@[simp] theorem State.pureResult_receiving (r : Result) (s : State) : (s.pureResult r).receiving = s.receiving := rfl
@[simp] theorem State.pureResult_brkDetected (r : Result) (s : State) : (s.pureResult r).brkDetected = s.brkDetected := rfl
@[simp] theorem State.pureResult_rxArmed (r : Result) (s : State) : (s.pureResult r).rxArmed = s.rxArmed := rfl
@[simp] theorem State.pureResult_port (r : Result) (s : State) : (s.pureResult r).port = s.port := rfl
@[simp] theorem State.pureResult_actions (r : Result) (s : State) : (s.pureResult r).actions = [] := rfl
@[simp] theorem State.pureResult_result (r : Result) (s : State) : (s.pureResult r).result = some r := rfl

@[simp] theorem State.arm_buf (s : State) : s.arm.buf = s.buf := rfl
@[simp] theorem State.arm_cur (s : State) : s.arm.cur = s.cur := rfl
@[simp] theorem State.arm_receiving (s : State) : s.arm.receiving = s.receiving := rfl
@[simp] theorem State.arm_brkDetected (s : State) : s.arm.brkDetected = s.brkDetected := rfl
@[simp] theorem State.arm_rxArmed (s : State) : s.arm.rxArmed = true := rfl
@[simp] theorem State.arm_port (s : State) : s.arm.port = s.port := rfl
@[simp] theorem State.arm_actions (s : State) : s.arm.actions = s.actions ++ [.rxArm] := rfl
@[simp] theorem State.arm_result (s : State) : s.arm.result = s.result := rfl

@[simp] theorem State.deliver_buf (s : State) : s.deliver.buf = s.buf := rfl
@[simp] theorem State.deliver_cur (s : State) : s.deliver.cur = s.cur := rfl
@[simp] theorem State.deliver_receiving (s : State) : s.deliver.receiving = s.receiving := rfl
@[simp] theorem State.deliver_brkDetected (s : State) : s.deliver.brkDetected = s.brkDetected := rfl
@[simp] theorem State.deliver_rxArmed (s : State) : s.deliver.rxArmed = false := rfl
@[simp] theorem State.deliver_port (s : State) : s.deliver.port = s.port := rfl
@[simp] theorem State.deliver_actions (s : State) : s.deliver.actions = s.actions := rfl
@[simp] theorem State.deliver_result (s : State) : s.deliver.result = s.result := rfl

@[simp] theorem State.consumeBreak_buf (s : State) : s.consumeBreak.buf = s.buf := rfl
@[simp] theorem State.consumeBreak_cur (s : State) : s.consumeBreak.cur = s.cur := rfl
@[simp] theorem State.consumeBreak_receiving (s : State) : s.consumeBreak.receiving = s.receiving := rfl
@[simp] theorem State.consumeBreak_brkDetected (s : State) : s.consumeBreak.brkDetected = false := rfl
@[simp] theorem State.consumeBreak_rxArmed (s : State) : s.consumeBreak.rxArmed = s.rxArmed := rfl
@[simp] theorem State.consumeBreak_port (s : State) : s.consumeBreak.port = s.port := rfl
@[simp] theorem State.consumeBreak_actions (s : State) : s.consumeBreak.actions = s.actions := rfl
@[simp] theorem State.consumeBreak_result (s : State) : s.consumeBreak.result = s.result := rfl

@[simp] theorem State.toIdle_buf (s : State) : s.toIdle.buf = s.buf := rfl
@[simp] theorem State.toIdle_cur (s : State) : s.toIdle.cur = 0#4 := rfl
@[simp] theorem State.toIdle_receiving (s : State) : s.toIdle.receiving = false := rfl
@[simp] theorem State.toIdle_brkDetected (s : State) : s.toIdle.brkDetected = s.brkDetected := rfl
@[simp] theorem State.toIdle_rxArmed (s : State) : s.toIdle.rxArmed = true := rfl
@[simp] theorem State.toIdle_port (s : State) : s.toIdle.port = s.port := rfl
@[simp] theorem State.toIdle_actions (s : State) : s.toIdle.actions = s.actions ++ [.rxArm] := rfl
@[simp] theorem State.toIdle_result (s : State) : s.toIdle.result = s.result := rfl

@[simp] theorem State.raiseFrameError_buf (e : FrameError) (s : State) : (s.raiseFrameError e).buf = s.buf := rfl
@[simp] theorem State.raiseFrameError_cur (e : FrameError) (s : State) : (s.raiseFrameError e).cur = 0#4 := rfl
@[simp] theorem State.raiseFrameError_receiving (e : FrameError) (s : State) : (s.raiseFrameError e).receiving = false := rfl
@[simp] theorem State.raiseFrameError_brkDetected (e : FrameError) (s : State) : (s.raiseFrameError e).brkDetected = s.brkDetected := rfl
@[simp] theorem State.raiseFrameError_rxArmed (e : FrameError) (s : State) : (s.raiseFrameError e).rxArmed = true := rfl
@[simp] theorem State.raiseFrameError_port (e : FrameError) (s : State) : (s.raiseFrameError e).port = s.port := rfl
@[simp] theorem State.raiseFrameError_actions (e : FrameError) (s : State) : (s.raiseFrameError e).actions = s.actions ++ [e.report] ++ [.rxArm] := rfl
@[simp] theorem State.raiseFrameError_result (e : FrameError) (s : State) : (s.raiseFrameError e).result = some (.poll e.pollResult) := rfl

@[simp] theorem State.acceptFrame_buf (f : Frame) (s : State) : (s.acceptFrame f).buf = s.buf := rfl
@[simp] theorem State.acceptFrame_cur (f : Frame) (s : State) : (s.acceptFrame f).cur = 0#4 := rfl
@[simp] theorem State.acceptFrame_receiving (f : Frame) (s : State) : (s.acceptFrame f).receiving = false := rfl
@[simp] theorem State.acceptFrame_brkDetected (f : Frame) (s : State) : (s.acceptFrame f).brkDetected = s.brkDetected := rfl
@[simp] theorem State.acceptFrame_rxArmed (f : Frame) (s : State) : (s.acceptFrame f).rxArmed = true := rfl
@[simp] theorem State.acceptFrame_port (f : Frame) (s : State) : (s.acceptFrame f).port = s.port := rfl
@[simp] theorem State.acceptFrame_actions (f : Frame) (s : State) : (s.acceptFrame f).actions = s.actions ++ [.reportRxOk f] ++ [.rxArm] := rfl
@[simp] theorem State.acceptFrame_result (f : Frame) (s : State) : (s.acceptFrame f).result = some (.poll (.rxOk f)) := rfl

@[simp] theorem State.present_buf (ops : List Instr) (s : State) : (s.present ops).buf = s.buf := rfl
@[simp] theorem State.present_cur (ops : List Instr) (s : State) : (s.present ops).cur = s.cur := rfl
@[simp] theorem State.present_receiving (ops : List Instr) (s : State) : (s.present ops).receiving = s.receiving := rfl
@[simp] theorem State.present_brkDetected (ops : List Instr) (s : State) : (s.present ops).brkDetected = s.brkDetected := rfl
@[simp] theorem State.present_rxArmed (ops : List Instr) (s : State) : (s.present ops).rxArmed = s.rxArmed := rfl
@[simp] theorem State.present_port (ops : List Instr) (s : State) : (s.present ops).port = s.port ++ ops.flatMap encode := rfl
@[simp] theorem State.present_actions (ops : List Instr) (s : State) : (s.present ops).actions = s.actions := rfl
@[simp] theorem State.present_result (ops : List Instr) (s : State) : (s.present ops).result = s.result := rfl

end Sys2Proof.Machine
end

