-- ==== Sys2Proof/Laws/Memory.lean ====
section
/-! SUPPORT. The laws of BUF: a read after a write, and that every memory operation keeps the canonical form. -/

namespace Sys2Proof.Machine

@[simp] theorem Memory.read_nil (a : Nat) : Memory.read [] a = Config.bufUnwritten := rfl

theorem Memory.read_cons (k : Nat) (v : Byte) (m : Memory) (a : Nat) :
    Memory.read ((k, v) :: m) a = if k = a then v else Memory.read m a := rfl

theorem Memory.read_erase (m : Memory) (a b : Nat) :
    Memory.read (Memory.erase m a) b = if a = b then Config.bufUnwritten else Memory.read m b := by
  induction m with
  | nil => simp [Memory.erase]
  | cons c m ih =>
    obtain ⟨k, v⟩ := c
    by_cases hk : k = a
    · subst hk
      by_cases hb : k = b
      · subst hb
        simpa [Memory.erase] using ih
      · simp [Memory.erase, Memory.read_cons, ih, hb]
    · by_cases hb : k = b
      · subst hb
        simp [Memory.erase, Memory.read_cons, hk, Ne.symm hk]
      · simp [Memory.erase, Memory.read_cons, hk, hb, ih]

theorem Memory.read_insert (m : Memory) (a : Nat) (v : Byte) (b : Nat)
    (h : ∀ c ∈ m, c.1 ≠ a) :
    Memory.read (Memory.insert m a v) b = if a = b then v else Memory.read m b := by
  induction m with
  | nil => simp [Memory.insert, Memory.read_cons]
  | cons c m ih =>
    obtain ⟨k, x⟩ := c
    have hk : k ≠ a := h (k, x) (by simp)
    have ih := ih fun c hc => h c (by simp [hc])
    by_cases hlt : a < k
    · simp [Memory.insert, hlt, Memory.read_cons]
    · by_cases hb : k = b
      · subst hb
        simp [Memory.insert, hlt, Memory.read_cons, Ne.symm hk]
      · simp [Memory.insert, hlt, Memory.read_cons, hb, ih]

theorem Memory.erase_keys (m : Memory) (a : Nat) : ∀ c ∈ Memory.erase m a, c.1 ≠ a := by
  induction m with
  | nil => simp [Memory.erase]
  | cons c m ih =>
    obtain ⟨k, v⟩ := c
    by_cases hk : k = a
    · simpa [Memory.erase, hk] using ih
    · simpa [Memory.erase, hk] using ih

/-- All a write does: the byte written at its index, every other byte as before. -/
theorem Memory.read_write (m : Memory) (a : Nat) (v : Byte) (b : Nat) :
    Memory.read (Memory.write m a v) b = if a = b then v else Memory.read m b := by
  unfold Memory.write
  split
  · next hv => by_cases hab : a = b <;> simp [Memory.read_erase, hab, hv]
  · rw [Memory.read_insert _ _ _ _ (Memory.erase_keys m a), Memory.read_erase]
    by_cases hab : a = b <;> simp [hab]

@[simp] theorem Memory.read_write_same (m : Memory) (a : Nat) (v : Byte) :
    Memory.read (Memory.write m a v) a = v := by simp [Memory.read_write]

theorem Memory.read_write_other (m : Memory) {a b : Nat} (v : Byte) (h : b ≠ a) :
    Memory.read (Memory.write m a v) b = Memory.read m b := by
  simp [Memory.read_write, Ne.symm h]

theorem Memory.wfFrom_cons (lo k : Nat) (v : Byte) (m : Memory) :
    Memory.wfFrom lo ((k, v) :: m) = true
      ↔ lo ≤ k ∧ k < 9 ∧ v ≠ Config.bufUnwritten ∧ Memory.wfFrom (k + 1) m = true := by
  simp [Memory.wfFrom, and_assoc]

theorem Memory.wfFrom_mono {lo lo' : Nat} {m : Memory} (h : Memory.wfFrom lo m = true) (hl : lo' ≤ lo) :
    Memory.wfFrom lo' m = true := by
  cases m with
  | nil => rfl
  | cons c m =>
    obtain ⟨k, v⟩ := c
    rw [Memory.wfFrom_cons] at h ⊢
    exact ⟨by omega, h.2⟩

theorem Memory.wfFrom_erase {lo : Nat} {m : Memory} (h : Memory.wfFrom lo m = true) (a : Nat) :
    Memory.wfFrom lo (Memory.erase m a) = true := by
  induction m generalizing lo with
  | nil => rfl
  | cons c m ih =>
    obtain ⟨k, v⟩ := c
    rw [Memory.wfFrom_cons] at h
    by_cases hk : k = a
    · simpa [Memory.erase, hk] using Memory.wfFrom_mono (ih h.2.2.2) (by omega)
    · simp only [Memory.erase, if_neg hk, Memory.wfFrom_cons]
      exact ⟨h.1, h.2.1, h.2.2.1, ih h.2.2.2⟩

theorem Memory.wfFrom_insert {lo : Nat} {m : Memory} {a : Nat} {v : Byte} (h : Memory.wfFrom lo m = true)
    (hlo : lo ≤ a) (ha : a < 9) (hv : v ≠ Config.bufUnwritten) (free : ∀ c ∈ m, c.1 ≠ a) :
    Memory.wfFrom lo (Memory.insert m a v) = true := by
  induction m generalizing lo with
  | nil => exact (Memory.wfFrom_cons lo a v []).2 ⟨hlo, ha, hv, rfl⟩
  | cons c m ih =>
    obtain ⟨k, x⟩ := c
    rw [Memory.wfFrom_cons] at h
    have hk : k ≠ a := free (k, x) (by simp)
    by_cases hlt : a < k
    · simp only [Memory.insert, if_pos hlt, Memory.wfFrom_cons]
      exact ⟨hlo, ha, hv, by omega, h.2.1, h.2.2.1, h.2.2.2⟩
    · simp only [Memory.insert, if_neg hlt, Memory.wfFrom_cons]
      exact ⟨h.1, h.2.1, h.2.2.1, ih h.2.2.2 (by omega) fun c hc => free c (by simp [hc])⟩

/-- A write at an index that exists keeps the canonical form. -/
theorem Memory.wf_write {m : Memory} (h : m.wf = true) {a : Nat} (ha : a < 9) (v : Byte) :
    (m.write a v).wf = true := by
  unfold Memory.write
  split
  · exact Memory.wfFrom_erase h a
  · next hv => exact Memory.wfFrom_insert (Memory.wfFrom_erase h a) (by omega) ha hv (Memory.erase_keys m a)

theorem Memory.read_below {lo : Nat} {m : Memory} (h : Memory.wfFrom lo m = true) {a : Nat} (ha : a < lo) :
    Memory.read m a = Config.bufUnwritten := by
  induction m generalizing lo with
  | nil => rfl
  | cons c m ih =>
    obtain ⟨k, v⟩ := c
    rw [Memory.wfFrom_cons] at h
    simp only [Memory.read_cons, if_neg (show k ≠ a by omega)]
    exact ih h.2.2.2 (by omega)

theorem Memory.wfFrom_ext {lo : Nat} {m n : Memory} (hm : Memory.wfFrom lo m = true)
    (hn : Memory.wfFrom lo n = true) (h : ∀ a, Memory.read m a = Memory.read n a) : m = n := by
  induction m generalizing lo n with
  | nil =>
    cases n with
    | nil => rfl
    | cons d n =>
      obtain ⟨k, v⟩ := d
      rw [Memory.wfFrom_cons] at hn
      exact absurd (by simpa [Memory.read_cons] using (h k).symm) hn.2.2.1
  | cons c m ih =>
    obtain ⟨k, v⟩ := c
    rw [Memory.wfFrom_cons] at hm
    cases n with
    | nil => exact absurd (by simpa [Memory.read_cons] using h k) hm.2.2.1
    | cons d n =>
      obtain ⟨k', v'⟩ := d
      rw [Memory.wfFrom_cons] at hn
      have hk : k = k' := by
        rcases lt_trichotomy k k' with hlt | heq | hgt
        · have := h k
          rw [Memory.read_cons, if_pos rfl, Memory.read_cons, if_neg (by omega),
            Memory.read_below hn.2.2.2 (by omega)] at this
          exact absurd this hm.2.2.1
        · exact heq
        · have := h k'
          rw [Memory.read_cons, if_neg (by omega), Memory.read_below hm.2.2.2 (by omega), Memory.read_cons,
            if_pos rfl] at this
          exact absurd this.symm hn.2.2.1
      subst hk
      have hv : v = v' := by simpa [Memory.read_cons] using h k
      subst hv
      refine congrArg _ (ih hm.2.2.2 hn.2.2.2 fun a => ?_)
      by_cases hka : k = a
      · subst hka
        rw [Memory.read_below hm.2.2.2 (by omega), Memory.read_below hn.2.2.2 (by omega)]
      · simpa [Memory.read_cons, hka] using h a

/-- Equal memories are equal data: canonical buffers that read alike are one list. -/
theorem Memory.wf_ext {m n : Memory} (hm : m.wf = true) (hn : n.wf = true)
    (h : ∀ a, m.read a = n.read a) : m = n := Memory.wfFrom_ext hm hn h

theorem State.reset_buf_wf : State.reset.buf.wf = true := by decide

end Sys2Proof.Machine
end

