-- ==== Sys2Proof/Laws/Exec.lean ====
section
/-! SUPPORT. What each meaning can do, said once: proofs cite these and unfold no meaning. -/

namespace Sys2Proof.Machine

theorem State.complete_iff (s : State) : s.complete = true ↔ s.receiving = true ∧ 9 ≤ s.cur.toNat := by
  simp [State.complete]

/-- A store happens exactly at the indices that exist (R25). -/
theorem storeByte_some {s : State} (h : s.cur.toNat < 9) (b : Byte) :
    s.storeByte b = some { s with buf := s.buf.write s.cur.toNat b, cur := s.cur + 1#4 } :=
  if_pos h

theorem storeByte_none {s : State} (h : 9 ≤ s.cur.toNat) (b : Byte) : s.storeByte b = none :=
  if_neg (Nat.not_lt.mpr h)

theorem cursor_succ {c : Cursor} (h : c.toNat < 9) : (c + 1#4).toNat = c.toNat + 1 := by
  simp only [BitVec.toNat_add, BitVec.toNat_ofNat]
  omega

/-- RXB while no request is outstanding (R30). -/
theorem execRxb_unarmed {s : State} (h : s.rxArmed = false) (b : Byte) : execRxb b s = .next s.begin := by
  simp [execRxb, h]

/-- RXB in IDLE (R102). -/
theorem execRxb_idle {s : State} (ha : s.rxArmed = true) (hr : s.receiving = false) (b : Byte) :
    execRxb b s = .next s.begin.deliver.arm := by
  simp [execRxb, deliverByte, ha, hr]

/-- RXB at an index that exists (R97): store, advance, and re-arm below nine. -/
theorem execRxb_store {s : State} (ha : s.rxArmed = true) (hr : s.receiving = true) (hc : s.cur.toNat < 9)
    (b : Byte) :
    execRxb b s = .next
      { s with
        buf := s.buf.write s.cur.toNat b
        cur := s.cur + 1#4
        rxArmed := decide (s.cur.toNat + 1 < 9)
        actions := if s.cur.toNat + 1 < 9 then [.rxArm] else []
        result := none } := by
  have hs := storeByte_some (s := s.begin.deliver) (by simpa using hc) b
  simp only [execRxb, ha, deliverByte, if_true, State.deliver_receiving, State.begin_receiving, hr, hs]
  by_cases h : s.cur.toNat + 1 < 9
  · simp [State.rearmBelowFrame, cursor_succ hc, h, State.arm, State.emit, State.begin, State.deliver, hr]
  · simp [State.rearmBelowFrame, cursor_succ hc, h, State.begin, State.deliver, hr]

/-- RXB at an index that does not exist. -/
theorem execRxb_fault {s : State} (ha : s.rxArmed = true) (hr : s.receiving = true) (hc : 9 ≤ s.cur.toNat)
    (b : Byte) : execRxb b s = .fault (.bufferIndex s.cur) := by
  have hs := storeByte_none (s := s.begin.deliver) (by simpa using hc) b
  simp [execRxb, ha, deliverByte, hr, hs]

/-- Everything RXB can do. -/
theorem execRxb_cases (s : State) (b : Byte) :
    (s.rxArmed = false ∧ execRxb b s = .next { s with actions := [], result := none })
    ∨ (s.rxArmed = true ∧ s.receiving = false
        ∧ execRxb b s = .next { s with actions := [.rxArm], result := none })
    ∨ (s.rxArmed = true ∧ s.receiving = true ∧ s.cur.toNat < 9
        ∧ execRxb b s = .next
          { s with
            buf := s.buf.write s.cur.toNat b
            cur := s.cur + 1#4
            rxArmed := decide (s.cur.toNat + 1 < 9)
            actions := if s.cur.toNat + 1 < 9 then [.rxArm] else []
            result := none })
    ∨ (s.rxArmed = true ∧ s.receiving = true ∧ 9 ≤ s.cur.toNat
        ∧ execRxb b s = .fault (.bufferIndex s.cur)) := by
  by_cases ha : s.rxArmed = true
  · by_cases hr : s.receiving = true
    · by_cases hc : s.cur.toNat < 9
      · exact .inr (.inr (.inl ⟨ha, hr, hc, execRxb_store ha hr hc b⟩))
      · exact .inr (.inr (.inr ⟨ha, hr, by omega, execRxb_fault ha hr (by omega) b⟩))
    · have hr : s.receiving = false := by simpa using hr
      refine .inr (.inl ⟨ha, hr, ?_⟩)
      rw [execRxb_idle ha hr b]
      simp [State.arm, State.emit, State.begin, State.deliver, ha]
  · have ha : s.rxArmed = false := by simpa using ha
    exact .inl ⟨ha, execRxb_unarmed ha b⟩

/-- POLL without a complete frame (R98). -/
theorem execPoll_noFrame {s : State} (h : s.complete = false) :
    execPoll s = .next (s.begin.consumeBreak.answer (.poll .noFrame)) := by
  simp [execPoll, h]

/-- POLL on a complete frame (R98). -/
theorem execPoll_complete {s : State} (h : s.complete = true) :
    execPoll s = .next (processFrame s.begin.consumeBreak) := by
  simp [execPoll, h]

theorem validate_sync {m : Memory} (h : m.read 1 ≠ 0x55#8) : validate m = .error (.sync (m.read 1)) := by
  simp [validate, bufFrame, h]

theorem validate_ok {m : Memory} (h : m.read 1 = 0x55#8)
    (hc : m.read 8 = computeChecksum (m.read 2) (bufData m).bytes) : validate m = .ok (bufFrame m) := by
  have hc' : (bufFrame m).ck = computeChecksum (bufFrame m).pid (bufFrame m).data.bytes := hc
  have h' : (bufFrame m).sync = Config.sync := h
  simp [validate, h', hc']

theorem validate_checksum {m : Memory} (h : m.read 1 = 0x55#8)
    (hc : m.read 8 ≠ computeChecksum (m.read 2) (bufData m).bytes) :
    validate m
      = .error (.checksum (m.read 8) (computeChecksum (m.read 2) (bufData m).bytes)) := by
  have hc' : (bufFrame m).ck ≠ computeChecksum (bufFrame m).pid (bufFrame m).data.bytes := hc
  have h' : (bufFrame m).sync = Config.sync := h
  simp only [validate, h', ne_eq, not_true_eq_false, if_false, if_neg hc']
  rfl

/-- VALIDATE reads the indices 1 to 8 and no others (R31). -/
theorem validate_congr {m n : Memory} (h : ∀ a : Nat, 1 ≤ a → a < 9 → m.read a = n.read a) :
    validate m = validate n := by
  have hf : bufFrame m = bufFrame n := by
    simp only [bufFrame, bufData, syncIndex, pidIndex, dataIndex, ckIndex]
    simp only [h _ (show 1 ≤ 1 by omega) (by omega), h _ (show 1 ≤ 2 by omega) (by omega),
      h _ (show 1 ≤ 3 + 0 by omega) (by omega), h _ (show 1 ≤ 3 + 1 by omega) (by omega),
      h _ (show 1 ≤ 3 + 2 by omega) (by omega), h _ (show 1 ≤ 3 + 3 by omega) (by omega),
      h _ (show 1 ≤ 3 + 4 by omega) (by omega), h _ (show 1 ≤ 8 by omega) (by omega)]
  simp only [validate, hf]

/-- The end of a complete frame is the same for every outcome (R98, R109): one report, the re-arm, IDLE. -/
theorem processFrame_cases (s : State) :
    ∃ rep r, processFrame s
        = { s with
            receiving := false
            cur := 0#4
            rxArmed := true
            actions := s.actions ++ [rep] ++ [.rxArm]
            result := some (.poll r) }
      ∧ ((∃ f, validate s.buf = .ok f ∧ rep = .reportRxOk f ∧ r = .rxOk f)
        ∨ ∃ e, validate s.buf = .error e ∧ rep = e.report ∧ r = e.pollResult) := by
  cases h : validate s.buf with
  | ok f => exact ⟨_, _, by simp only [processFrame, h]; rfl, .inl ⟨f, rfl, rfl, rfl⟩⟩
  | error e => exact ⟨_, _, by simp only [processFrame, h]; rfl, .inr ⟨e, rfl, rfl, rfl⟩⟩

/-- Everything POLL can do. -/
theorem execPoll_cases (s : State) :
    (s.complete = false
      ∧ execPoll s = .next { s with brkDetected := false, actions := [], result := some (.poll .noFrame) })
    ∨ (s.complete = true ∧ ∃ rep r,
        execPoll s = .next
          { s with
            receiving := false
            cur := 0#4
            brkDetected := false
            rxArmed := true
            actions := [rep, .rxArm]
            result := some (.poll r) }
        ∧ ((∃ f, validate s.buf = .ok f ∧ rep = .reportRxOk f ∧ r = .rxOk f)
          ∨ ∃ e, validate s.buf = .error e ∧ rep = e.report ∧ r = e.pollResult)) := by
  cases h : s.complete with
  | false => exact .inl ⟨rfl, execPoll_noFrame h⟩
  | true =>
    obtain ⟨rep, r, hp, hv⟩ := processFrame_cases s.begin.consumeBreak
    refine .inr ⟨rfl, rep, r, ?_, hv⟩
    rw [execPoll_complete h, hp]
    rfl

/-- A trace in two parts. -/
theorem execAll_append {before : List Instr} {s t : State} (after : List Instr)
    (h : execAll before s = .next t) : execAll (before ++ after) s = execAll after t := by
  induction before generalizing s with
  | nil =>
    cases h
    rfl
  | cons i is ih =>
    simp only [List.cons_append, execAll] at h ⊢
    cases hi : exec i s with
    | next u =>
      rw [hi] at h
      exact ih h
    | fault r =>
      rw [hi] at h
      cases h
    | refused r =>
      rw [hi] at h
      cases h

/-- A port that holds something is fetched from by the decoder. -/
theorem fetch_of_ne_nil {bs : List Byte} (h : bs ≠ []) : fetch bs = decode bs := by
  cases bs with
  | nil => exact absurd rfl h
  | cons b bs => rfl

/-- The step performs what was fetched. -/
theorem step_of_fetch {s : State} {i : Instr} {rest : List Byte} (h : fetch s.port = .ok (i, rest)) :
    step s = exec i { s with port := rest } := by
  simp [step, h]

/-- The step refuses what the decoder refuses. -/
theorem step_of_reject {s : State} {why : Reject} (h : fetch s.port = .error why) :
    step s = .refused (.badCommand why) := by
  simp [step, h]

end Sys2Proof.Machine
end

