-- ==== Sys2Proof/Laws/PerInstr.lean ====
section
/-! SUPPORT. The layout of every command (spec 30_encoding.md R45, R46), one lemma per constructor of `Instr`. -/

namespace Sys2Proof.Laws.CommandLayout

/-- The command of an operation starts with its opcode and has the length of R46's table, and one that a command can
carry is at most 259 bytes long. -/
def Statement (i : Instr) : Prop :=
  (encode i).head? = some i.op.code ∧ (encode i).length = i.commandLength
    ∧ (i.wellFormed = true → i.commandLength ≤ longestCommand)

theorem nop : Statement .nop := ⟨rfl, rfl, fun _ => by simp [Instr.commandLength, longestCommand]⟩

theorem reset : Statement .reset := ⟨rfl, rfl, fun _ => by simp [Instr.commandLength, longestCommand]⟩

theorem parity (id : Ident) : Statement (.parity id) := ⟨rfl, rfl, fun _ => by simp [Instr.commandLength, longestCommand]⟩

theorem encpid (id : Ident) : Statement (.encpid id) := ⟨rfl, rfl, fun _ => by simp [Instr.commandLength, longestCommand]⟩

theorem decpid (pid : Byte) : Statement (.decpid pid) := ⟨rfl, rfl, fun _ => by simp [Instr.commandLength, longestCommand]⟩

theorem cksum (seed : Byte) (bytes : List Byte) : Statement (.cksum seed bytes) := by
  refine ⟨rfl, ?_, fun h => ?_⟩
  · simp [encode, Instr.operandBytes, Instr.commandLength]
    omega
  · simp only [Instr.wellFormed, fitsLen, decide_eq_true_eq] at h
    simp only [Instr.commandLength, longestCommand]
    omega

theorem ckvfy (seed candidate : Byte) (bytes : List Byte) : Statement (.ckvfy seed candidate bytes) := by
  refine ⟨rfl, ?_, fun h => ?_⟩
  · simp [encode, Instr.operandBytes, Instr.commandLength]
    omega
  · simp only [Instr.wellFormed, fitsLen, decide_eq_true_eq] at h
    simp only [Instr.commandLength, longestCommand]
    omega

theorem send (id : Ident) (data : Payload) : Statement (.send id data) := ⟨rfl, rfl, fun _ => by simp [Instr.commandLength, longestCommand]⟩

theorem brk : Statement .brk := ⟨rfl, rfl, fun _ => by simp [Instr.commandLength, longestCommand]⟩

theorem rxb (byte : Byte) : Statement (.rxb byte) := ⟨rfl, rfl, fun _ => by simp [Instr.commandLength, longestCommand]⟩

theorem poll : Statement .poll := ⟨rfl, rfl, fun _ => by simp [Instr.commandLength, longestCommand]⟩

end Sys2Proof.Laws.CommandLayout
end

