-- ==== Sys2Proof/Machine/Trace.lean ====
section
/-! DEFINITION. The trace syntax of spec 30_encoding.md R55: one operation a line, its result after `=>`, its actions
after `!`. Text only; nothing in the semantics depends on it. Log 19. -/

namespace Sys2Proof.Machine

/-- One hexadecimal digit, capital. -/
def hexDigit (n : Nat) : String :=
  if n < 10 then String.singleton (Char.ofNat (48 + n)) else String.singleton (Char.ofNat (55 + n))

/-- A byte as two hexadecimal digits. -/
def hexPair (b : Byte) : String := hexDigit (b.toNat / 16) ++ hexDigit (b.toNat % 16)

/-- A byte as R55 writes it: `0x55`. -/
def byteText (b : Byte) : String := "0x" ++ hexPair b

/-- Items with a separator between them. -/
def joinText (sep : String) : List String → String
  | [] => ""
  | [x] => x
  | x :: y :: rest => x ++ sep ++ joinText sep (y :: rest)

/-- A byte sequence as R55 writes it: `[48 65 6C 6C 6F]`. -/
def bytesText (bs : List Byte) : String := "[" ++ joinText " " (bs.map hexPair) ++ "]"

/-- A mnemonic followed by its operands, separated by commas (R55). -/
def lineText (mnemonic : String) : List String → String
  | [] => mnemonic
  | ops => mnemonic ++ " " ++ joinText ", " ops

/-- The line of an operation (R55). -/
def Instr.trace : Instr → String
  | .nop => "NOP"
  | .reset => "RESET"
  | .parity id => lineText "PARITY" [byteText (id.setWidth 8)]
  | .encpid id => lineText "ENCPID" [byteText (id.setWidth 8)]
  | .decpid pid => lineText "DECPID" [byteText pid]
  | .cksum seed bytes => lineText "CKSUM" [byteText seed, bytesText bytes]
  | .ckvfy seed candidate bytes => lineText "CKVFY" [byteText seed, byteText candidate, bytesText bytes]
  | .send id data => lineText "SEND" [byteText (id.setWidth 8), bytesText data.bytes]
  | .brk => "BRK"
  | .rxb b => lineText "RXB" [byteText b]
  | .poll => "POLL"

/-- A name with its fields in parentheses. -/
def recordText (name : String) (fields : List String) : String := name ++ "(" ++ joinText ", " fields ++ ")"

/-- The fields of a report or of `RxOk` (R43, R57). -/
def Frame.fieldTexts (f : Frame) : List String :=
  [byteText f.sync, byteText f.pid, bytesText f.data.bytes, byteText f.ck]

/-- A truth value as R55 writes it. -/
def boolText (b : Bool) : String := if b then "true" else "false"

/-- A POLL result (R57). -/
def PollResult.trace : PollResult → String
  | .noFrame => "None"
  | .rxOk f => recordText "RxOk" f.fieldTexts
  | .syncErr observed => recordText "SyncErr" [byteText observed]
  | .ckErr received expected => recordText "CkErr" [byteText received, byteText expected]

/-- What stands after `=>` (R55). -/
def Result.trace : Result → String
  | .parity p => hexDigit p.toNat
  | .encpid pid => byteText pid
  | .decpid id ok => recordText "" [byteText (id.setWidth 8), boolText ok]
  | .cksum ck => byteText ck
  | .ckvfy ok => boolText ok
  | .poll r => r.trace

/-- One action after `!` (R55, R43, R130, R131). -/
def Action.trace : Action → String
  | .txBreak => "TX_BREAK"
  | .txByte b => "TX_BYTE " ++ byteText b
  | .rxArm => "RX_ARM"
  | .reportSent f => recordText "REPORT_SENT" f.fieldTexts
  | .reportRxOk f => recordText "REPORT_RX_OK" f.fieldTexts
  | .reportSyncErr observed => recordText "REPORT_SYNC_ERR" [byteText observed]
  | .reportCkErr received expected => recordText "REPORT_CK_ERR" [byteText received, byteText expected]

/-- The whole line of an operation that led to a state: operation, result, actions (R55). -/
def traceLine (i : Instr) (s : State) : String :=
  Instr.trace i
    ++ (match s.result with
        | some r => " => " ++ r.trace
        | none => "")
    ++ (match s.actions with
        | [] => ""
        | as => " ! " ++ joinText ", " (as.map Action.trace))

end Sys2Proof.Machine
end

