-- ==== Sys2Proof/Tests/Slice0.lean ====
section
/-! SUPPORT. Tests with expected values from spec 95_test_vectors.md, the encodings of spec 30_encoding.md and the
examples of the operation rules; and for every obligation with hypotheses a witness that meets them. -/

namespace Sys2Proof.Tests

open Sys2Proof Sys2Proof.Machine

/-! ### Helpers -/

/-- The next state of an outcome, if it is one. -/
def next? : Host.Outcome State Fault Refusal → Option State
  | .next t => some t
  | .fault _ => none
  | .refused _ => none

/-- Why a step refuses, if it does. -/
def refusal? : Host.Outcome State Fault Refusal → Option Refusal
  | .next _ => none
  | .fault _ => none
  | .refused r => some r

/-- A buffer that holds bytes from an index on. -/
def bufFrom : Nat → List Byte → Memory
  | _, [] => []
  | k, b :: bs => (bufFrom (k + 1) bs).write k b

/-- A decoder state as spec 95_test_vectors.md writes it, (RECEIVING, CUR, BRK_DETECTED, RX_ARMED), with the bytes of
BUF. -/
def dec (receiving : Bool) (cur : Cursor) (brk armed : Bool) (bytes : List Byte) : State where
  buf := bufFrom 0 bytes
  cur := cur
  receiving := receiving
  brkDetected := brk
  rxArmed := armed
  port := []
  actions := []
  result := none

/-- A state without BUF and the port. -/
structure View where
  receiving : Bool
  cur : Cursor
  brkDetected : Bool
  rxArmed : Bool
  actions : List Action
  result : Option Result
deriving DecidableEq, Repr

/-- RECEIVING, CUR, BRK_DETECTED, RX_ARMED, the actions and the result of a state. -/
def view (s : State) : View := ⟨s.receiving, s.cur, s.brkDetected, s.rxArmed, s.actions, s.result⟩

/-- "Hello" (spec 00_scope.md R9). -/
def hello : Payload := ⟨0x48, 0x65, 0x6C, 0x6C, 0x6F⟩

/-- The frame of V-ENC-1. -/
def helloFrame : Frame := ⟨0x55, 0xC1, hello, 0x48⟩

/-- The state of V-DEC-16: COMPLETE, with the good frame of V-ENC-1. -/
def good : State := dec true 9 true false [0x00, 0x55, 0xC1, 0x48, 0x65, 0x6C, 0x6C, 0x6F, 0x48]

/-- The state of V-DEC-18: a wrong sync byte. -/
def badSync : State := dec true 9 true false [0x00, 0x54, 0x41, 0x48, 0x65, 0x6C, 0x6C, 0x6F, 0xC8]

/-- The state of V-DEC-19: a wrong checksum byte. -/
def badCk : State := dec true 9 true false [0x00, 0x55, 0x41, 0x48, 0x65, 0x6C, 0x6C, 0x6F, 0x37]

/-- A sequence of that many bytes. -/
def zeros (n : Nat) : List Byte := List.replicate n 0x00

theorem zeros_length (n : Nat) : (zeros n).length = n := List.length_replicate

/-! ### Well-formedness smoke tests: the one check, in each format that has a `len` byte -/

theorem test_cksum_of_256_bytes_is_ill_formed :
    (Instr.cksum 0x00 (zeros 256)).wellFormed = false := by
  simp [Instr.wellFormed, fitsLen, zeros_length]

theorem test_ckvfy_of_256_bytes_is_ill_formed :
    (Instr.ckvfy 0x00 0x00 (zeros 256)).wellFormed = false := by
  simp [Instr.wellFormed, fitsLen, zeros_length]

/-! ### Decoding: words written out from the tables of R45 and R46 -/

theorem test_decode_nop : decode [0b00000000] = .ok (.nop, []) := by decide
theorem test_decode_reset : decode [0b00000001] = .ok (.reset, []) := by decide
/-- id = 100000b in bits 5:0. -/
theorem test_decode_parity : decode [0b00010000, 0b00100000] = .ok (.parity 32, []) := by decide
theorem test_decode_encpid : decode [0b00010001, 0b00000001] = .ok (.encpid 1, []) := by decide
/-- All eight bits of a PID operand are used. -/
theorem test_decode_decpid : decode [0b00010010, 0b11000001] = .ok (.decpid 0xC1, []) := by decide
/-- V-CK-6 as a command; the byte behind it stays on the port. -/
theorem test_decode_cksum : decode [0b00100000, 0x80, 0b00000001, 0x7F, 0x42] = .ok (.cksum 0x80 [0x7F], [0x42]) := by
  decide
/-- The candidate stands before the length (format V). -/
theorem test_decode_ckvfy : decode [0b00100001, 0xC1, 0x49, 0b00000010, 0x48, 0x65]
    = .ok (.ckvfy 0xC1 0x49 [0x48, 0x65], []) := by decide
/-- V-ENC-7: data_0 first. -/
theorem test_decode_send : decode [0b00110000, 0b00101010, 0xDE, 0xAD, 0xBE, 0xEF, 0x00]
    = .ok (.send 0x2A ⟨0xDE, 0xAD, 0xBE, 0xEF, 0x00⟩, []) := by decide
theorem test_decode_brk : decode [0b01000000] = .ok (.brk, []) := by decide
theorem test_decode_rxb : decode [0b01000001, 0b10011001] = .ok (.rxb 0x99, []) := by decide
theorem test_decode_poll : decode [0b01000010] = .ok (.poll, []) := by decide

/-- R49: neighbours of the eleven opcodes are not decoded as one of them. -/
theorem test_decode_reserved :
    decode [0x02, 0x00] = .error (.reservedOpcode 0x02) ∧ decode [0x13, 0x00] = .error (.reservedOpcode 0x13)
    ∧ decode [0x43] = .error (.reservedOpcode 0x43) ∧ decode [0xFF] = .error (.reservedOpcode 0xFF) := by decide

/-- V-PID-28, V-PID-29, V-ENC-9. -/
theorem test_decode_identifier_range :
    decode [0x11, 0x40] = .error (.identifierRange 0x40) ∧ decode [0x10, 0xFF] = .error (.identifierRange 0xFF)
    ∧ decode [0x30, 0x41, 0x48, 0x65, 0x6C, 0x6C, 0x6F] = .error (.identifierRange 0x41) := by decide

/-- A row of the opcode table as a word: 8 bits with operand bytes of zeros, and a whole 16-bit command. -/
theorem test_table_words :
    decodeTableWord 8 0x20 = some (.cksum 0 []) ∧ decodeTableWord 8 0x30 = some (.send 0 ⟨0, 0, 0, 0, 0⟩)
    ∧ decodeTableWord 16 0x3F11 = some (.encpid 63) ∧ decodeTableWord 8 0x43 = none := by decide

/-- The first step after reset runs the word that is placed: BRK. -/
theorem test_fetch_word_runs :
    (next? (step (State.reset.withFetchWord 8 0x40))).map view = some ⟨true, 0, true, true, [.rxArm], none⟩ := by
  decide

/-! ### One step of each operation -/

/-- P5 step 12. -/
theorem test_nop_step : next? (exec .nop (dec true 8 false true [])) = some (dec true 8 false true []) := by decide

/-- R145 from the COMPLETE condition; BUF is kept. -/
theorem test_reset_from_complete : (next? (exec .reset good)).map view = some ⟨false, 0, false, true, [.rxArm], none⟩
    ∧ (next? (exec .reset good)).map (·.buf) = some good.buf := by decide

/-- V-PID-1, V-PID-3. -/
theorem test_parity : (next? (exec (.parity 0) State.reset)).map (·.result) = some (some (.parity 2))
    ∧ (next? (exec (.parity 1) State.reset)).map (·.result) = some (some (.parity 3)) := by decide

/-- V-PID-7, V-PID-8: bits 2 and 3 are each in one subset only. -/
theorem test_encpid : (next? (exec (.encpid 4) State.reset)).map (·.result) = some (some (.encpid 0xC4))
    ∧ (next? (exec (.encpid 8) State.reset)).map (·.result) = some (some (.encpid 0x08)) := by decide

/-- V-PID-19, V-PID-25. -/
theorem test_decpid : (next? (exec (.decpid 0x81) State.reset)).map (·.result) = some (some (.decpid 1 false))
    ∧ (next? (exec (.decpid 0x55) State.reset)).map (·.result) = some (some (.decpid 0x15 true)) := by decide

/-- V-CK-6, V-CK-7: a sum of 255 is not reduced, one of 256 is. -/
theorem test_cksum_boundary : (next? (exec (.cksum 0x80 [0x7F]) State.reset)).map (·.result) = some (some (.cksum 0x00))
    ∧ (next? (exec (.cksum 0x80 [0x80]) State.reset)).map (·.result) = some (some (.cksum 0xFE)) := by decide

/-- V-CK-12, V-CK-18. -/
theorem test_cksum_sequence :
    (next? (exec (.cksum 0x4A [0x55, 0x93, 0xE5]) State.reset)).map (·.result) = some (some (.cksum 0xE6))
    ∧ (next? (exec (.cksum 0xC1 hello.bytes) State.reset)).map (·.result) = some (some (.cksum 0x48)) := by decide

/-- V-CK-22, V-CK-23. -/
theorem test_ckvfy : (next? (exec (.ckvfy 0xC1 0x49 hello.bytes) State.reset)).map (·.result) = some (some (.ckvfy false))
    ∧ (next? (exec (.ckvfy 0xC1 0x48 [0x65, 0x48, 0x6C, 0x6C, 0x6F]) State.reset)).map (·.result)
      = some (some (.ckvfy true)) := by decide

/-- V-ENC-7. -/
theorem test_send : (next? (exec (.send 0x2A ⟨0xDE, 0xAD, 0xBE, 0xEF, 0x00⟩) State.reset)).map (·.actions)
    = some [.txBreak, .txByte 0x00, .txByte 0x55, .txByte 0x6A, .txByte 0xDE, .txByte 0xAD, .txByte 0xBE, .txByte 0xEF,
        .txByte 0x00, .txByte 0x5A, .reportSent ⟨0x55, 0x6A, ⟨0xDE, 0xAD, 0xBE, 0xEF, 0x00⟩, 0x5A⟩] := by decide

/-- V-DEC-2, V-DEC-4. -/
theorem test_brk : (next? (exec .brk (dec true 4 true true []))).map view
      = some ⟨true, 0, true, true, [.rxArm], none⟩
    ∧ (next? (exec .brk good)).map view = some ⟨true, 0, true, true, [.rxArm], none⟩ := by decide

/-- V-DEC-10, V-DEC-11: re-armed after index 7, not after index 8. -/
theorem test_rxb_stores :
    next? (exec (.rxb 0x6F) (dec true 7 true true [])) = some
      { dec true 8 true true [0, 0, 0, 0, 0, 0, 0, 0x6F] with actions := [.rxArm] }
    ∧ next? (exec (.rxb 0x48) (dec true 8 true true [])) = some
      (dec true 9 true false [0, 0, 0, 0, 0, 0, 0, 0, 0x48]) := by decide

/-- V-DEC-6, V-DEC-12. -/
theorem test_rxb_discards_and_drops :
    next? (exec (.rxb 0x55) (dec false 0 false true [])) = some { dec false 0 false true [] with actions := [.rxArm] }
    ∧ next? (exec (.rxb 0x99) good) = some good := by decide

/-- V-DEC-15, V-DEC-16. -/
theorem test_poll_none_and_good :
    (next? (exec .poll (dec true 8 true true []))).map view = some ⟨true, 8, false, true, [], some (.poll .noFrame)⟩
    ∧ (next? (exec .poll good)).map view = some ⟨false, 0, false, true,
        [.reportRxOk helloFrame, .rxArm], some (.poll (.rxOk helloFrame))⟩ := by decide

/-- V-DEC-18, V-DEC-19. -/
theorem test_poll_errors :
    (next? (exec .poll badSync)).map view = some ⟨false, 0, false, true,
      [.reportSyncErr 0x54, .rxArm], some (.poll (.syncErr 0x54))⟩
    ∧ (next? (exec .poll badCk)).map view = some ⟨false, 0, false, true,
      [.reportCkErr 0x37 0xC8, .rxArm], some (.poll (.ckErr 0x37 0xC8))⟩ := by decide

/-- The STATUS column of P5: steps 1, 10, 11 and 23. -/
theorem test_status : State.reset.status = 0x80 ∧ (dec true 8 true true []).status = 0xD8
    ∧ (dec true 8 false true []).status = 0x98 ∧ good.status = 0x79 := by decide

/-- R56: LOOPBACK 0x01, "Hello" spelled out. -/
theorem test_loopback : loopback 1 hello = .send 1 hello
    :: frameTrace [0x00, 0x55, 0xC1, 0x48, 0x65, 0x6C, 0x6C, 0x6F, 0x48] := by decide

/-- The third line of R55's listing, and its POLL line with P1's record. -/
theorem test_trace_text :
    traceLine (.decpid 0xC1) (State.reset.pureResult (.decpid 1 true)) = "DECPID 0xC1 => (0x01, true)"
    ∧ traceLine .poll (State.begin good |>.acceptFrame helloFrame)
      = "POLL => RxOk(0x55, 0xC1, [48 65 6C 6C 6F], 0x48) ! REPORT_RX_OK(0x55, 0xC1, [48 65 6C 6C 6F], 0x48), RX_ARM" :=
  ⟨by rfl, by rfl⟩

/-! ### Witnesses: for every obligation with hypotheses, a state and operands that meet them -/

/-- DecodeReadsBackEveryCommand: the shortest and the longest sequence a command carries. -/
theorem test_witness_decode_reads_back : (Instr.cksum 0xC1 []).wellFormed = true
    ∧ (Instr.ckvfy 0xC1 0x48 (zeros 255)).wellFormed = true
    ∧ (Instr.send 63 hello).wellFormed = true := by
  simp [Instr.wellFormed, fitsLen, zeros_length]

/-- DecodedBytesAreTheEncoding. -/
theorem test_witness_decoded_bytes : decode [0x41, 0xFF, 0x13] = .ok (.rxb 0xFF, [0x13]) := by decide

/-- ReservedOpcodesAreRefused, at two ends of the reserved range. -/
theorem test_witness_reserved : ∀ b ∈ ([0x02, 0xFF] : List Byte), ∃ s : State, s.port = b :: []
    ∧ b ∉ ([0x00, 0x01, 0x10, 0x11, 0x12, 0x20, 0x21, 0x30, 0x40, 0x41, 0x42] : List Byte) := by
  intro b hb
  refine ⟨{ State.reset with port := [b] }, rfl, ?_⟩
  revert b
  decide

/-- IdentifiersAboveSixtyThreeAreRefused: 64 for PARITY, 128 for ENCPID, 255 for SEND. -/
theorem test_witness_identifier_range :
    ((0x40 : Byte).getLsbD 6 = true ∧ (0x80 : Byte).getLsbD 7 = true ∧ (0xFF : Byte).getLsbD 6 = true)
    ∧ { State.reset with port := [0x10, 0x40] }.port = 0x10 :: (0x40 : Byte) :: []
    ∧ { State.reset with port := [0x11, 0x80, 0x00] }.port = 0x11 :: (0x80 : Byte) :: [0x00]
    ∧ { State.reset with port := [0x30, 0xFF, 0x48, 0x65, 0x6C, 0x6C, 0x6F] }.port
      = 0x30 :: (0xFF : Byte) :: hello.d0 :: hello.d1 :: hello.d2 :: hello.d3 :: hello.d4 :: [] := by decide

/-- PartialCommandsAreRefused: the last of five sequence bytes missing, and all but the opcode missing. -/
theorem test_witness_partial :
    ((Instr.cksum 0xC1 hello.bytes).wellFormed = true
      ∧ encode (.cksum 0xC1 hello.bytes) = [0x20, 0xC1, 0x05, 0x48, 0x65, 0x6C, 0x6C] ++ [0x6F])
    ∧ (Instr.send 1 hello).wellFormed = true
    ∧ encode (.send 1 hello) = [0x30] ++ [0x01, 0x48, 0x65, 0x6C, 0x6C, 0x6F] := by decide

/-- StepPerformsTheDecodedOperation. -/
theorem test_witness_step_performs :
    decode { State.reset with port := [0x41, 0x55, 0x42] }.port = .ok (.rxb 0x55, [0x42]) := by decide

/-- StepWithNothingPresentedIsNop. -/
theorem test_witness_nothing_presented : State.reset.port = [] := rfl

/-- PresentedOperationsRunInOrder. -/
theorem test_witness_presented :
    (∀ i ∈ [Instr.brk, .rxb 0x00, .cksum 0xC1 [0x48], .poll], i.wellFormed = true) ∧ State.reset.port = [] := by
  decide

/-- EncpidBuildsTheProtectedIdentifier: identifier 1, bit 5, and an identifier with the same PID. -/
theorem test_witness_encpid : (5 : Nat) < 6 ∧ (1 : Ident) = 1#6
    ∧ Returns (.encpid 1) State.reset (.encpid 0xC1) := ⟨by decide, rfl, rfl⟩

/-- PidParityDetectsEverySingleBitFlip: bit 7, and identifier 0. -/
theorem test_witness_pid_flip : (7 : Nat) < 8 ∧ (0 : Ident) = 0#6 := by decide

/-- ChecksumIsTheEndAroundCarrySum and ChecksumHasTheClosedForm: a sum of exactly 256 (V-CK-7), and the total of
V-CK-18. -/
theorem test_witness_checksum_sum : (256 : Nat) = (255 - (0x7F : Byte).toNat) + (0x80 : Byte).toNat
    ∧ (693 : Nat) = (0xC1 : Byte).toNat + (hello.bytes.map BitVec.toNat).sum := by decide

/-- ChecksumIgnoresByteOrder: V-CK-24, the seed and data_0 exchanged. -/
theorem test_witness_byte_order : List.Perm ([0xC1, 0x48, 0x65] : List Byte) [0x48, 0xC1, 0x65] := by decide

/-- ChecksumDetectsEverySingleBitFlip: bit 7 with data_1 of V-CK-18, and bit 0 with the empty sequence of V-CK-1. -/
theorem test_witness_checksum_flip : ((7 : Nat) < 8
      ∧ Returns (.cksum 0xC1 hello.bytes) State.reset (.cksum 0x48)
      ∧ hello.bytes = [0x48] ++ (0x65 : Byte) :: [0x6C, 0x6C, 0x6F])
    ∧ (0 : Nat) < 8 ∧ Returns (.cksum 0x00 []) State.reset (.cksum 0xFF) :=
  ⟨⟨by decide, rfl, rfl⟩, by decide, rfl⟩

/-- ChecksumMissesTheListedErrors: V-CK-26 with V-CK-27 (a seed that is not 0), a seed of 0 beside a byte that is not,
and V-CK-25. -/
theorem test_witness_missed_errors : ((0xC1 : Byte) ≠ 0#8 ∧ ∃ b ∈ ([] ++ [0x01] : List Byte), b ≠ 0#8)
    ∧ (0x48 : Byte).toNat + (0x65 : Byte).toNat = (0x49 : Byte).toNat + (0x64 : Byte).toNat := by decide

/-- RxbStoresDiscardsOrDrops: unarmed (COMPLETE); IDLE; ASSEMBLING at the first and the last index. -/
theorem test_witness_rxb : good.rxArmed = false
    ∧ (State.reset.rxArmed = true ∧ State.reset.receiving = false)
    ∧ ∀ c ∈ [(0 : Cursor), 8], (dec true c true true []).rxArmed = true ∧ (dec true c true true []).receiving = true
      ∧ (dec true c true true []).cur.toNat < 9 := by decide

/-- RxbFaultsBeyondTheBuffer: cursor 9 and cursor 15 while armed (states no run reaches). -/
theorem test_witness_rxb_fault : ∀ c ∈ [(9 : Cursor), 15], (dec true c true true []).rxArmed = true
    ∧ (dec true c true true []).receiving = true ∧ 9 ≤ (dec true c true true []).cur.toNat := by decide

/-- IdleConsumesAnyNumberOfBytes: P7 steps 2 to 4. -/
theorem test_witness_idle : State.reset.receiving = false ∧ State.reset.rxArmed = true
    ∧ ([0x00, 0x55, 0xC1] : List Byte) ≠ [] := by decide

/-- Ten bytes after a break (the tenth is dropped), with NOP, a codec operation, a SEND and two POLLs between them, the
second after the eighth byte. -/
def interleaved : List Instr :=
  feed [0x00, 0x55, 0xC1] ++ [.nop, .poll, .cksum 0xC1 [0x48]] ++ feed [0x48, 0x65, 0x6C, 0x6C, 0x6F]
    ++ [.send 1 hello, .poll] ++ feed [0x48, 0x99]

/-- FrameBytesAreStoredInArrivalOrder: the trace above, with k = 8 and the indices 8 and 9 on either side of its bound;
and no operation at all, where every index lies beyond the bytes. -/
theorem test_witness_frame_bytes :
    ((∀ i ∈ interleaved, i ≠ .brk ∧ i ≠ .reset)
      ∧ (∀ before after : List Instr, interleaved = before ++ .poll :: after → (receivedBytes before).length < 9)
      ∧ 8 < (receivedBytes interleaved).length ∧ (receivedBytes interleaved).length = 10)
    ∧ (∀ i ∈ ([] : List Instr), i ≠ .brk ∧ i ≠ .reset)
    ∧ (∀ before after : List Instr, [] = before ++ .poll :: after → (receivedBytes before).length < 9)
    ∧ (receivedBytes []).length ≤ 0 := by
  refine ⟨⟨by decide, ?_, by decide, by decide⟩, by decide, ?_, by decide⟩
  · intro before after h
    have key : ∀ n ∈ List.range interleaved.length, interleaved[n]? = some .poll →
        (receivedBytes (interleaved.take n)).length < 9 := by decide
    have hlen : before.length ∈ List.range interleaved.length := by simp [h]
    have hp := key before.length hlen (by simp [h])
    rwa [h, List.take_left] at hp
  · intro before after h
    simp at h

/-- V-DEC-11 and P6 step 12 as one trace: what the decoder holds after it. -/
theorem test_interleaved_trace : (next? (execAll (.brk :: interleaved) State.reset)).map
    (fun t => (decide (t.buf = good.buf), t.cur, t.rxArmed)) = some (true, 9, false) := by decide

/-- PollWithoutFrameAnswersNone: IDLE, and ASSEMBLING with eight bytes. -/
theorem test_witness_poll_none : ¬(State.reset.receiving = true ∧ 9 ≤ State.reset.cur.toNat)
    ∧ ¬((dec true 8 true true []).receiving = true ∧ 9 ≤ (dec true 8 true true []).cur.toNat) := by decide

/-- PollAcceptsAGoodFrame, and PollRecoversAlikeFromEveryOutcome: V-DEC-16. -/
theorem test_witness_poll_good : good.receiving = true ∧ 9 ≤ good.cur.toNat ∧ good.buf.read 1 = 0x55
    ∧ Returns (.cksum (good.buf.read 2)
      [good.buf.read 3, good.buf.read 4, good.buf.read 5, good.buf.read 6, good.buf.read 7]) good
      (.cksum (good.buf.read 8))
    ∧ helloFrame = ⟨0x55, good.buf.read 2,
        ⟨good.buf.read 3, good.buf.read 4, good.buf.read 5, good.buf.read 6, good.buf.read 7⟩, good.buf.read 8⟩ :=
  ⟨by decide, by decide, by decide, rfl, by decide⟩

/-- PollRaisesSyncError: V-DEC-18. -/
theorem test_witness_poll_sync : badSync.receiving = true ∧ 9 ≤ badSync.cur.toNat ∧ badSync.buf.read 1 ≠ 0x55 := by
  decide

/-- PollRaisesChecksumError: V-DEC-19. -/
theorem test_witness_poll_checksum : badCk.receiving = true ∧ 9 ≤ badCk.cur.toNat ∧ badCk.buf.read 1 = 0x55
    ∧ Returns (.cksum (badCk.buf.read 2)
      [badCk.buf.read 3, badCk.buf.read 4, badCk.buf.read 5, badCk.buf.read 6, badCk.buf.read 7]) badCk (.cksum 0xC8)
    ∧ badCk.buf.read 8 ≠ 0xC8 := ⟨by decide, by decide, by decide, rfl, by decide⟩

/-- FrameErrorsAreRaisedByPollOnly: both errors occur. -/
theorem test_witness_frame_errors :
    ((next? (exec .poll badSync)).map (·.result) = some (some (.poll (.syncErr 0x54)))
      ∧ (PollResult.syncErr 0x54).cause ≠ 0)
    ∧ (next? (exec .poll badCk)).map (·.result) = some (some (.poll (.ckErr 0x37 0xC8)))
    ∧ (PollResult.ckErr 0x37 0xC8).cause ≠ 0 := by decide

/-- EachFrameIsReportedOnce and UnpolledFrameIsLostToABreak. -/
theorem test_witness_complete : good.complete = true ∧ badSync.complete = true := by decide

/-- StalledAssemblyWaitsForABreak: P5 at cursor 8, with another POLL and with a late byte. -/
theorem test_witness_stalled : (dec true 8 true true []).receiving = true ∧ (dec true 8 true true []).cur.toNat < 9
    ∧ Instr.poll ≠ .brk ∧ Instr.poll ≠ .reset ∧ Instr.rxb 0x48 ≠ .brk ∧ Instr.rxb 0x48 ≠ .reset := by decide

/-- The invariant holds in IDLE, in ASSEMBLING at both ends of the cursor's range, and in COMPLETE; beside each the
operations of ReceptionIsArmedUnlessAFrameIsComplete and of CoincidentRequestsAreByteBreakPoll. -/
theorem test_witness_invariant : State.reset.Inv ∧ (dec true 0 true true []).Inv
    ∧ (dec true 8 true true [0x00, 0x55]).Inv ∧ good.Inv := by decide

/-- ReceptionIsArmedUnlessAFrameIsComplete: a POLL that arms again what was unarmed. -/
theorem test_witness_rearmed : good.rxArmed = false ∧ (next? (exec .poll good)).map (·.rxArmed) = some true := by decide

/-- EachCollaboratorIsUsedByItsOperationsOnly: every kind of action is emitted by some operation. -/
theorem test_witness_collaborators :
    (next? (exec (.send 1 hello) State.reset)).map (fun t =>
      decide (Action.txBreak ∈ t.actions ∧ Action.txByte 0x55 ∈ t.actions ∧ Action.reportSent helloFrame ∈ t.actions))
      = some true
    ∧ (next? (exec .poll good)).map (fun t =>
      decide (Action.reportRxOk helloFrame ∈ t.actions ∧ Action.rxArm ∈ t.actions)) = some true
    ∧ (next? (exec .poll badSync)).map (fun t => decide (Action.reportSyncErr 0x54 ∈ t.actions)) = some true
    ∧ (next? (exec .poll badCk)).map (fun t => decide (Action.reportCkErr 0x37 0xC8 ∈ t.actions)) = some true := by
  decide

/-- OnlyRxbWritesTheBuffer and OnlyTheListedOperationsMoveTheCursor: an RXB that does both, and a BRK, a RESET and a
POLL that move the cursor. -/
theorem test_witness_writes :
    (next? (exec (.rxb 0x55) (dec true 1 true true []))).map (fun t =>
      decide (t.buf.read 1 ≠ (dec true 1 true true []).buf.read 1 ∧ t.cur ≠ 1)) = some true
    ∧ (next? (exec .brk good)).map (fun t => decide (t.cur ≠ good.cur)) = some true
    ∧ (next? (exec .reset good)).map (fun t => decide (t.cur ≠ good.cur)) = some true
    ∧ (next? (exec .poll good)).map (fun t => decide (t.cur ≠ good.cur)) = some true := by decide

/-- BreakFlagIsSetByBrkAndClearedByPoll: next states of BRK, POLL, RESET and of an operation that keeps the flag. -/
theorem test_witness_break_flag :
    [Instr.brk, .poll, .reset, .rxb 0x55].map (fun i => (next? (exec i (dec true 4 true true []))).map (·.brkDetected))
      = [some true, some false, some false, some true] := by decide

/-- OnlyBrkStartsAndOnlyPollOrResetEndsAssembly: BRK starts one; POLL and RESET end one. -/
theorem test_witness_assembly : State.reset.receiving = false
    ∧ (next? (exec .brk State.reset)).map (·.receiving) = some true ∧ good.receiving = true
    ∧ (next? (exec .poll good)).map (·.receiving) = some false
    ∧ (next? (exec .reset good)).map (·.receiving) = some false := by decide

/-- ContextsKeepToTheirWritePermissions: a next state in each context. -/
theorem test_witness_contexts :
    (contextOf (.rxb 0x55) = some .interrupt ∧ (next? (exec (.rxb 0x55) (dec true 4 true true []))).isSome = true
      ∧ (dec true 4 true true []).receiving = true ∧ (dec true 4 true true []).brkDetected = true)
    ∧ contextOf .poll = some .foreground
    ∧ (next? (exec .poll (dec true 4 true true []))).map (fun t => (t.receiving, t.brkDetected)) = some (true, false)
    ∧ contextOf (.send 1 hello) = some .foreground
    ∧ (next? (exec (.send 1 hello) (dec true 4 true true []))).map (fun t => (t.brkDetected, t.rxArmed))
      = some (true, true) := by decide

/-- CodecsAndEncoderHoldNoState: one operation of each of the six shapes. -/
theorem test_witness_pure : (∃ id, Instr.parity 1 = .parity id) ∧ (∃ id, Instr.encpid 1 = .encpid id)
    ∧ (∃ pid, Instr.decpid 0xC1 = .decpid pid) ∧ (∃ seed bytes, Instr.cksum 0xC1 [] = .cksum seed bytes)
    ∧ (∃ seed candidate bytes, Instr.ckvfy 0xC1 0x48 [] = .ckvfy seed candidate bytes)
    ∧ ∃ id data, Instr.send 1 hello = .send id data :=
  ⟨⟨_, rfl⟩, ⟨_, rfl⟩, ⟨_, rfl⟩, ⟨_, _, rfl⟩, ⟨_, _, _, rfl⟩, ⟨_, _, rfl⟩⟩

/-- ResetPutsTheDecoderInIdle: a buffer in canonical form, with stale bytes. -/
theorem test_witness_reset : good.buf.wf = true := by decide

/-- StatusWordShowsTheState: the last cursor bit. -/
theorem test_witness_status : (3 : Nat) < 4 ∧ good.receiving = true ∧ 9 ≤ good.cur.toNat := by decide

/-- CoincidentRequestsAreByteBreakPoll: the ninth byte of a frame ties with a break and a poll. -/
theorem test_witness_coincident : (dec true 8 true true [0x00, 0x55, 0xC1, 0x48, 0x65, 0x6C, 0x6C, 0x6F]).Inv
    ∧ (true : Bool) = true := by decide

/-- StepKeepsTheInvariant: a step that leaves the COMPLETE condition. -/
theorem test_witness_step_invariant : { good with port := [0x42] }.Inv
    ∧ (next? (step { good with port := [0x42] })).isSome = true := by decide

/-- StepNeverStoresOutsideTheBuffer: a tenth byte is presented to a complete frame. -/
theorem test_witness_no_fault : { good with port := [0x41, 0x99] }.Inv := by decide

/-- EveryReachableStateIsSafe: the state after a break is presented and performed. -/
theorem test_witness_reachable : ∃ t : State, Reachable t ∧ t.receiving = true ∧ t.cur = 0#4 :=
  ⟨_, Reachable.step _ _ (Reachable.present _ [0x40] Reachable.reset) rfl, rfl, rfl⟩

/-- StaleBufferBytesAreUnobservable: two states that differ in the bytes not stored since the last break. -/
theorem test_witness_stale :
    SameButStale (dec true 1 true true [0x00, 0x11, 0x22]) (dec true 1 true true [0x00, 0x33])
    ∧ dec true 1 true true [0x00, 0x11, 0x22] ≠ dec true 1 true true [0x00, 0x33] := by
  refine ⟨⟨rfl, rfl, rfl, rfl, rfl, ?_⟩, by decide⟩
  intro a ha
  have : a = 0 := by
    have h : (dec true 1 true true [0x00, 0x11, 0x22]).cur.toNat = 1 := rfl
    omega
  subst this
  decide

end Sys2Proof.Tests
end

/-! ## The state (spec 10_state.md): the break flag, the pure operations, the status word -/

namespace Sys2Proof.Machine

/-! ### The pure operations, one equation each (R20, R21) -/

theorem returns_parity (id : Ident) (s : State) :
    Returns (.parity id) s (.parity (computeParity id)) := rfl

theorem returns_encpid (id : Ident) (s : State) :
    Returns (.encpid id) s (.encpid (encodePid id)) := rfl

theorem returns_decpid (pid : Byte) (s : State) :
    Returns (.decpid pid) s (.decpid (pidIdent pid) (pidParityOk pid)) := rfl

theorem returns_cksum (seed : Byte) (bytes : List Byte) (s : State) :
    Returns (.cksum seed bytes) s (.cksum (computeChecksum seed bytes)) := rfl

theorem returns_ckvfy (seed candidate : Byte) (bytes : List Byte) (s : State) :
    Returns (.ckvfy seed candidate bytes) s (.ckvfy (verifyChecksum seed candidate bytes)) := rfl

theorem exec_send (id : Ident) (data : Payload) (s : State) :
    exec (.send id data) s = .next { s with actions := sendActions id data, result := none } := rfl

/-- Settles O49: each of the six operations has its equation, in which the state stands only as the frame. -/
theorem codecsAndEncoderHoldNoState : Obligations.CodecsAndEncoderHoldNoState := by
  unfold Obligations.CodecsAndEncoderHoldNoState
  rintro i s s' (⟨id, rfl⟩ | ⟨id, rfl⟩ | ⟨pid, rfl⟩ | ⟨seed, bytes, rfl⟩ | ⟨seed, candidate, bytes, rfl⟩
    | ⟨id, data, rfl⟩)
  · exact ⟨_, _, returns_parity id s, returns_parity id s'⟩
  · exact ⟨_, _, returns_encpid id s, returns_encpid id s'⟩
  · exact ⟨_, _, returns_decpid pid s, returns_decpid pid s'⟩
  · exact ⟨_, _, returns_cksum seed bytes s, returns_cksum seed bytes s'⟩
  · exact ⟨_, _, returns_ckvfy seed candidate bytes s, returns_ckvfy seed candidate bytes s'⟩
  · exact ⟨_, _, exec_send id data s, exec_send id data s'⟩

/-! ### The bits of the status word (R19) -/

theorem status_getLsbD_cur (s : State) {k : Nat} (hk : k < 4) :
    s.status.getLsbD k = s.cur.getLsbD k := by
  simp only [State.status, BitVec.getLsbD_append, if_pos hk]

theorem status_getLsbD_receiving (s : State) : s.status.getLsbD 4 = s.receiving := by
  simp only [State.status, BitVec.getLsbD_append, BitVec.getLsbD_ofBool]
  simp

theorem status_getLsbD_complete (s : State) : s.status.getLsbD 5 = s.complete := by
  simp only [State.status, BitVec.getLsbD_append, BitVec.getLsbD_ofBool]
  simp

theorem status_getLsbD_brkDetected (s : State) : s.status.getLsbD 6 = s.brkDetected := by
  simp only [State.status, BitVec.getLsbD_append, BitVec.getLsbD_ofBool]
  simp

theorem status_getLsbD_rxArmed (s : State) : s.status.getLsbD 7 = s.rxArmed := by
  simp only [State.status, BitVec.getLsbD_append, BitVec.getLsbD_ofBool]
  simp

/-- Settles O53, bit by bit; bit 5 is COMPLETE, which `State.complete_iff` spells out. -/
theorem statusWordShowsTheState : Obligations.StatusWordShowsTheState := by
  unfold Obligations.StatusWordShowsTheState
  intro s
  refine ⟨fun k hk => status_getLsbD_cur s hk, status_getLsbD_receiving s, ?_,
    status_getLsbD_brkDetected s, status_getLsbD_rxArmed s⟩
  rw [status_getLsbD_complete]
  exact s.complete_iff

/-! ### The break flag (R15)

One lemma carries both halves of R15: an operation that completes from `s` completes from `s` with any flag `v`, in the
same state but for the flag, which is `breakFlagAfter i v`. At `v = s.brkDetected` it says what the flag becomes. -/

/-- The break flag an operation leaves, given the one it meets. -/
def breakFlagAfter (i : Instr) (flag : Bool) : Bool :=
  if i = .brk then true else if i = .poll ∨ i = .reset then false else flag

/-- RXB branches on RX_ARMED, RECEIVING and CUR alone, and keeps the flag. -/
theorem execRxb_setBreakFlag {s t : State} {b : Byte} (h : execRxb b s = .next t) (v : Bool) :
    execRxb b { s with brkDetected := v } = .next { t with brkDetected := v } := by
  obtain ⟨ha, -⟩ | ⟨ha, hr, -⟩ | ⟨ha, hr, hc, -⟩ | ⟨-, -, -, hf⟩ := execRxb_cases s b
  · rw [execRxb_unarmed ha] at h
    cases h
    exact execRxb_unarmed (s := { s with brkDetected := v }) ha b
  · rw [execRxb_idle ha hr] at h
    cases h
    exact execRxb_idle (s := { s with brkDetected := v }) ha hr b
  · rw [execRxb_store ha hr hc] at h
    cases h
    exact execRxb_store (s := { s with brkDetected := v }) ha hr hc b
  · rw [hf] at h
    cases h

/-- POLL clears the flag before it looks at the frame, so its outcome is the same whatever the flag was. -/
theorem execPoll_setBreakFlag (s : State) (v : Bool) : execPoll { s with brkDetected := v } = execPoll s := rfl

theorem execPoll_clears_breakFlag {s t : State} (h : execPoll s = .next t) : t.brkDetected = false := by
  obtain ⟨-, hp⟩ | ⟨-, rep, r, hp, -⟩ := execPoll_cases s <;>
  · rw [hp] at h
    cases h
    rfl

/-- No operation depends on the flag it meets, and `breakFlagAfter` is the flag it leaves. -/
theorem exec_setBreakFlag {i : Instr} {s t : State} (h : exec i s = .next t) (v : Bool) :
    exec i { s with brkDetected := v } = .next { t with brkDetected := breakFlagAfter i v } := by
  cases i with
  | rxb b => exact execRxb_setBreakFlag h v
  | poll =>
    have ht : t.brkDetected = breakFlagAfter .poll v := execPoll_clears_breakFlag h
    rw [← ht]
    exact (execPoll_setBreakFlag s v).trans h
  | nop | reset | parity | encpid | decpid | cksum | ckvfy | send | brk =>
    cases h
    rfl

theorem exec_brkDetected {i : Instr} {s t : State} (h : exec i s = .next t) :
    t.brkDetected = breakFlagAfter i s.brkDetected := by
  have ht : t = { t with brkDetected := breakFlagAfter i s.brkDetected } :=
    Host.Outcome.next.inj (h.symm.trans (exec_setBreakFlag h s.brkDetected))
  exact congrArg State.brkDetected ht

/-- Settles O46, from `exec_setBreakFlag` and bit 6 of the status word. -/
theorem breakFlagIsSetByBrkAndClearedByPoll : Obligations.BreakFlagIsSetByBrkAndClearedByPoll := by
  unfold Obligations.BreakFlagIsSetByBrkAndClearedByPoll
  refine ⟨fun s t i h => exec_brkDetected h, fun s t i v h => ⟨?_, status_getLsbD_brkDetected t⟩⟩
  exact ⟨_, exec_setBreakFlag h v, rfl⟩

end Sys2Proof.Machine

/-! ## The encoding (spec 30_encoding.md): first bytes and identifier bytes that no command has -/

namespace Sys2Proof

/-- The opcodes of R46, written out. -/
theorem Op.code_mem_opcodes (op : Op) :
    op.code ∈ ([0x00, 0x01, 0x10, 0x11, 0x12, 0x20, 0x21, 0x30, 0x40, 0x41, 0x42] : List Byte) := by
  cases op <;> decide

/-- An identifier operand with a bit set above bits 5:0 is at least 64, which the decoder refuses (R47 (a), R50). -/
theorem identOperand_of_highBit {b : Byte} (h : b.getLsbD 6 = true ∨ b.getLsbD 7 = true) :
    identOperand b = .error (.identifierRange b) := by
  refine identOperand_error ?_
  obtain h6 | h7 := h
  · exact Nat.ge_two_pow_of_testBit h6
  · exact le_trans (by decide) (Nat.ge_two_pow_of_testBit h7)

section
variable {b : Byte} {why : Reject} (h : identOperand b = .error why)
include h

theorem decode_parity_error (rest : List Byte) : decode (Op.parity.code :: b :: rest) = .error why := by
  rw [decode_code, decodeOperands, h]
  rfl

theorem decode_encpid_error (rest : List Byte) : decode (Op.encpid.code :: b :: rest) = .error why := by
  rw [decode_code, decodeOperands, h]
  rfl

theorem decode_send_error (data : Payload) (rest : List Byte) :
    decode (Op.send.code :: b :: (data.bytes ++ rest)) = .error why := by
  rw [decode_code]
  simp only [Payload.bytes, List.cons_append, List.nil_append, decodeOperands, h]
  rfl

end

end Sys2Proof

namespace Sys2Proof.Machine

/-- What the decoder refuses on a port that holds something, the step refuses. -/
theorem step_of_decode_error {s : State} {b : Byte} {bs : List Byte} {why : Reject}
    (hport : s.port = b :: bs) (h : decode (b :: bs) = .error why) :
    step s = .refused (.badCommand why) := by
  refine step_of_reject ?_
  rw [hport]
  exact h

/-- Settles O4: every opcode stands in the list, so the first byte is no operation's opcode. -/
theorem reservedOpcodesAreRefused : Obligations.ReservedOpcodesAreRefused := by
  unfold Obligations.ReservedOpcodesAreRefused
  intro s b rest hport hb
  have hreserved : ∀ op : Op, b ≠ op.code := fun op hop => hb (hop ▸ op.code_mem_opcodes)
  exact step_of_decode_error hport (decode_reserved hreserved rest)

/-- Settles O5: the three commands read their identifier with the one operand rule, which refuses it. -/
theorem identifiersAboveSixtyThreeAreRefused : Obligations.IdentifiersAboveSixtyThreeAreRefused := by
  unfold Obligations.IdentifiersAboveSixtyThreeAreRefused
  intro s b data rest hbit hport
  have hid : identOperand b = .error (.identifierRange b) := identOperand_of_highBit hbit
  obtain hport | hport | hport := hport
  · exact step_of_decode_error hport (decode_parity_error hid rest)
  · exact step_of_decode_error hport (decode_encpid_error hid rest)
  · exact step_of_decode_error hport (decode_send_error hid data rest)

end Sys2Proof.Machine

/-! ## The PID codec (spec 40_pid_codec.md): the fields of a PID byte and the round trip

A PID is its parity field standing on its identifier field (`pidOf_eq_append`), so the laws of `++` say what each field
and each bit of it is. -/

namespace Sys2Proof.Machine

/-! ### The parity bits (R60) -/

@[simp] theorem computeParity_getLsbD_zero (id : Ident) : (computeParity id).getLsbD 0 = parity0 id := by
  simp only [computeParity, BitVec.getLsbD_append, BitVec.getLsbD_ofBool]
  simp

@[simp] theorem computeParity_getLsbD_one (id : Ident) : (computeParity id).getLsbD 1 = parity1 id := by
  simp only [computeParity, BitVec.getLsbD_append, BitVec.getLsbD_ofBool]
  simp

theorem parity0_eq (id : Ident) :
    parity0 id = (id.getLsbD 0 ^^ (id.getLsbD 1 ^^ (id.getLsbD 2 ^^ id.getLsbD 4))) := by
  simp only [parity0, Bool.xor_assoc]

theorem parity1_eq (id : Ident) :
    parity1 id = !(id.getLsbD 1 ^^ (id.getLsbD 3 ^^ (id.getLsbD 4 ^^ id.getLsbD 5))) := by
  simp only [parity1, Bool.xor_assoc]

/-- Settles O10, one bit of `computeParity` at a time. -/
theorem parityComputesTheListedBits : Obligations.ParityComputesTheListedBits := by
  unfold Obligations.ParityComputesTheListedBits
  intro id s
  refine ⟨computeParity id, returns_parity id s, ?_, ?_⟩
  · rw [computeParity_getLsbD_zero, parity0_eq]
  · rw [computeParity_getLsbD_one, parity1_eq]

/-! ### The two fields of a PID (R40, R61) -/

/-- The OR of R61 joins two fields that share no bit. -/
theorem pidOf_eq_append (id : Ident) (parity : ParityBits) : pidOf id parity = parity ++ id := by
  rw [pidOf, BitVec.or_comm, BitVec.append_def, BitVec.shiftLeftZeroExtend_eq, BitVec.setWidth'_eq]

theorem pidOf_getLsbD_ident (id : Ident) (parity : ParityBits) {k : Nat} (hk : k < 6) :
    (pidOf id parity).getLsbD k = id.getLsbD k := by
  rw [pidOf_eq_append, BitVec.getLsbD_append, if_pos hk]

theorem pidOf_getLsbD_parity (id : Ident) (parity : ParityBits) (k : Nat) :
    (pidOf id parity).getLsbD (6 + k) = parity.getLsbD k := by
  rw [pidOf_eq_append, BitVec.getLsbD_append, if_neg (by omega), Nat.add_sub_cancel_left]

@[simp] theorem pidIdent_pidOf (id : Ident) (parity : ParityBits) : pidIdent (pidOf id parity) = id := by
  rw [pidIdent, pidOf_eq_append, BitVec.extractLsb'_append_eq_right]

@[simp] theorem pidParity_pidOf (id : Ident) (parity : ParityBits) : pidParity (pidOf id parity) = parity := by
  rw [pidParity, pidOf_eq_append, BitVec.extractLsb'_append_eq_left]

/-! ### ENCPID and DECPID (R61 to R63) -/

@[simp] theorem pidIdent_encodePid (id : Ident) : pidIdent (encodePid id) = id := pidIdent_pidOf id _

@[simp] theorem pidParityOk_encodePid (id : Ident) : pidParityOk (encodePid id) = true := by
  rw [pidParityOk, pidIdent_encodePid, encodePid, pidParity_pidOf, beq_self_eq_true]

theorem encodePid_injective : Function.Injective encodePid :=
  Function.LeftInverse.injective pidIdent_encodePid

theorem encodePid_one : encodePid 1#6 = 0xC1#8 := by decide

/-- An operation has one outcome, so it returns one result. -/
theorem returns_unique {i : Instr} {s : State} {r r' : Result} (h : Returns i s r) (h' : Returns i s r') :
    r = r' := by
  have ht := Host.Outcome.next.inj (h.symm.trans h')
  exact Option.some.inj (congrArg State.result ht)

theorem returns_encpid_iff {id : Ident} {s : State} {pid : Byte} :
    Returns (.encpid id) s (.encpid pid) ↔ encodePid id = pid := by
  constructor
  · exact fun h => Result.encpid.inj (returns_unique (returns_encpid id s) h)
  · rintro rfl
    exact returns_encpid id s

/-- Settles O11: the bits are those of the two fields, and the identifier field tells any two PIDs apart. -/
theorem encpidBuildsTheProtectedIdentifier : Obligations.EncpidBuildsTheProtectedIdentifier := by
  unfold Obligations.EncpidBuildsTheProtectedIdentifier
  intro id s
  refine ⟨computeParity id, encodePid id, returns_parity id s, returns_encpid id s,
    fun k hk => pidOf_getLsbD_ident id _ hk, pidOf_getLsbD_parity id _ 0, pidOf_getLsbD_parity id _ 1, ?_, ?_⟩
  · rintro rfl
    exact encodePid_one
  · exact fun other h => encodePid_injective (returns_encpid_iff.mp h)

/-- Settles O13: DECPID reads both fields of the PID back (R63). -/
theorem decpidUndoesEncpid : Obligations.DecpidUndoesEncpid := by
  unfold Obligations.DecpidUndoesEncpid
  intro id s
  have hdec := returns_decpid (encodePid id) s
  rw [pidIdent_encodePid, pidParityOk_encodePid] at hdec
  exact ⟨encodePid id, returns_encpid id s, hdec⟩

end Sys2Proof.Machine

/-! ## The checksum codec (spec 41_checksum_codec.md): the sum, its comparison, and the receiver that uses both -/

namespace Sys2Proof.Machine

/-! ### CKSUM: the two equations of the sum (R70, R71) -/

@[simp] theorem computeChecksum_nil (seed : Byte) : computeChecksum seed [] = ~~~seed := by
  simp [computeChecksum]

/-- The running sum is 255 less the checksum (R71, read the other way). -/
theorem checksumFold_toNat (seed : Byte) (bytes : List Byte) :
    (checksumFold seed bytes).toNat = 255 - (computeChecksum seed bytes).toNat := by
  have := checksumFold_le seed bytes
  rw [computeChecksum_toNat]
  omega

/-- One more byte, with the sums read off the two checksums. -/
theorem computeChecksum_concat_toNat (seed : Byte) (bytes : List Byte) (b : Byte) {t : Nat}
    (ht : t = (255 - (computeChecksum seed bytes).toNat) + b.toNat) :
    (computeChecksum seed (bytes ++ [b])).toNat = 255 - (if 256 ≤ t then t - 255 else t) := by
  rw [computeChecksum_toNat, checksumFold_concat, foldStep_toNat (checksumFold_le seed bytes),
    checksumFold_toNat, ht]

/-- Settles O16: the empty sequence and the appended byte are the two equations of the sum. -/
theorem checksumIsTheEndAroundCarrySum : Obligations.ChecksumIsTheEndAroundCarrySum := by
  unfold Obligations.ChecksumIsTheEndAroundCarrySum
  intro seed bytes b s
  have hnil := returns_cksum seed [] s
  rw [computeChecksum_nil] at hnil
  exact ⟨_, _, hnil, returns_cksum seed bytes s, returns_cksum seed (bytes ++ [b]) s,
    fun _ ht => computeChecksum_concat_toNat seed bytes b ht⟩

/-! ### CKVFY (R72, R76) -/

theorem verifyChecksum_eq_decide (seed candidate : Byte) (bytes : List Byte) :
    verifyChecksum seed candidate bytes = decide (computeChecksum seed bytes = candidate) :=
  beq_eq_decide ..

@[simp] theorem verifyChecksum_computeChecksum (seed : Byte) (bytes : List Byte) :
    verifyChecksum seed (computeChecksum seed bytes) bytes = true := beq_self_eq_true _

/-- Settles O19: the comparison with any candidate, and with the computed checksum (R76). -/
theorem ckvfyComparesWithTheRecomputedChecksum : Obligations.CkvfyComparesWithTheRecomputedChecksum := by
  unfold Obligations.CkvfyComparesWithTheRecomputedChecksum
  intro seed candidate bytes s
  have hany := returns_ckvfy seed candidate bytes s
  have hself := returns_ckvfy seed (computeChecksum seed bytes) bytes s
  rw [verifyChecksum_eq_decide] at hany
  rw [verifyChecksum_computeChecksum] at hself
  exact ⟨_, returns_cksum seed bytes s, hany, hself⟩

/-! ### The bytes assembled since a break (R96, R97, R104)

BRK begins with no byte assembled, each RXB below nine adds its byte at the end, and POLL reads the frame off the nine
of them. -/

/-- The decoder is ASSEMBLING and the bytes delivered since its cursor was 0 are these, in order, at the indices from
0 on; it is armed while there are fewer than nine. -/
structure State.HasAssembled (s : State) (bytes : List Byte) : Prop where
  receiving : s.receiving = true
  cur : s.cur.toNat = bytes.length
  armed : s.rxArmed = decide (bytes.length < 9)
  stored : ∀ (k : Nat) (b : Byte), bytes[k]? = some b → s.buf.read k = b

theorem exec_brk_hasAssembled (s : State) : ∃ t : State, exec .brk s = .next t ∧ t.HasAssembled [] :=
  ⟨_, rfl, { receiving := rfl, cur := rfl, armed := rfl, stored := fun k b h => by simp at h }⟩

theorem exec_rxb_hasAssembled {s : State} {bytes : List Byte} (h : s.HasAssembled bytes) (hlen : bytes.length < 9)
    (b : Byte) : ∃ t : State, exec (.rxb b) s = .next t ∧ t.HasAssembled (bytes ++ [b]) := by
  have harmed : s.rxArmed = true := by simpa [hlen] using h.armed
  have hcur : s.cur.toNat < 9 := by rwa [h.cur]
  refine ⟨_, execRxb_store harmed h.receiving hcur b,
    { receiving := h.receiving, cur := ?_, armed := ?_, stored := fun k x hk => ?_ }⟩
  · simp [cursor_succ hcur, h.cur]
  · simp [h.cur]
  · by_cases hlast : k = s.cur.toNat
    · subst hlast
      rw [h.cur, List.getElem?_concat_length] at hk
      exact (Memory.read_write_same ..).trans (Option.some.inj hk)
    · have hk' : k < (bytes ++ [b]).length := (List.getElem?_eq_some_iff.mp hk).1
      rw [List.length_append, List.length_singleton, ← h.cur] at hk'
      rw [List.getElem?_append_left (by rw [← h.cur]; omega)] at hk
      exact (Memory.read_write_other _ b hlast).trans (h.stored k x hk)

/-- A trace whose first operation completes. -/
theorem execAll_cons {i : Instr} {s t : State} (is : List Instr) (h : exec i s = .next t) :
    execAll (i :: is) s = execAll is t := by
  simp only [execAll, h]

/-- FEED adds its bytes, in order, while they fit a frame. -/
theorem execAll_feed_hasAssembled {s : State} {bytes : List Byte} (more : List Byte) (h : s.HasAssembled bytes)
    (hlen : bytes.length + more.length ≤ 9) :
    ∃ t : State, execAll (feed more) s = .next t ∧ t.HasAssembled (bytes ++ more) := by
  induction more generalizing s bytes with
  | nil => exact ⟨s, rfl, by rwa [List.append_nil]⟩
  | cons b more ih =>
    rw [List.length_cons] at hlen
    obtain ⟨u, hu, hau⟩ := exec_rxb_hasAssembled h (by omega) b
    obtain ⟨t, ht, hat⟩ := ih hau (by simp; omega)
    refine ⟨t, (execAll_cons (feed more) hu).trans ht, ?_⟩
    rwa [List.append_cons]

/-- FRAME, from any state, assembles exactly its bytes. -/
theorem execAll_frameTrace_hasAssembled (s : State) {bytes : List Byte} (hlen : bytes.length ≤ 9) :
    ∃ t : State, execAll (frameTrace bytes) s = .next t ∧ t.HasAssembled bytes := by
  obtain ⟨u, hu, hau⟩ := exec_brk_hasAssembled s
  obtain ⟨t, ht, hat⟩ := execAll_feed_hasAssembled bytes hau (by simpa using hlen)
  exact ⟨t, (execAll_cons (feed bytes) hu).trans ht, hat⟩

/-! ### POLL of the assembled nine bytes (R80, R98, R99) -/

/-- The nine bytes of a frame as they arrive, behind any placeholder (R26). -/
def Frame.received (f : Frame) (b0 : Byte) : List Byte :=
  b0 :: f.sync :: f.pid :: (f.data.bytes ++ [f.ck])

theorem Frame.wire_eq_received (f : Frame) : f.wire = f.received Config.breakPad := rfl

@[simp] theorem Frame.received_length (f : Frame) (b0 : Byte) : (f.received b0).length = 9 := rfl

theorem bufFrame_of_hasAssembled {s : State} {f : Frame} {b0 : Byte} (h : s.HasAssembled (f.received b0)) :
    bufFrame s.buf = f := by
  obtain ⟨sync, pid, ⟨d0, d1, d2, d3, d4⟩, ck⟩ := f
  simp only [bufFrame, bufData, h.stored 1 sync rfl, h.stored 2 pid rfl, h.stored 3 d0 rfl, h.stored 4 d1 rfl,
    h.stored 5 d2 rfl, h.stored 6 d3 rfl, h.stored 7 d4 rfl, h.stored 8 ck rfl]

/-- VALIDATE accepts a frame by its sync byte and its checksum alone (R99). -/
theorem validate_of_bufFrame {m : Memory} {f : Frame} (hf : bufFrame m = f) (hsync : f.sync = Config.sync)
    (hck : f.ck = computeChecksum f.pid f.data.bytes) : validate m = .ok f := by
  subst hf
  exact validate_ok hsync hck

theorem execPoll_accepts {s : State} {f : Frame} {b0 : Byte} (h : s.HasAssembled (f.received b0))
    (hsync : f.sync = Config.sync) (hck : f.ck = computeChecksum f.pid f.data.bytes) :
    execPoll s = .next (s.begin.consumeBreak.acceptFrame f) := by
  have hcomplete : s.complete = true := s.complete_iff.mpr ⟨h.receiving, h.cur.ge⟩
  have hvalid : validate s.buf = .ok f := validate_of_bufFrame (bufFrame_of_hasAssembled h) hsync hck
  rw [execPoll_complete hcomplete]
  simp only [processFrame, State.consumeBreak_buf, State.begin_buf, hvalid]

/-- A frame with a good sync byte and the checksum of its own PID byte and data is accepted from any state. -/
theorem execAll_frameTrace_poll_accepts (s : State) (b0 : Byte) {f : Frame} (hsync : f.sync = Config.sync)
    (hck : f.ck = computeChecksum f.pid f.data.bytes) :
    ∃ t : State, execAll (frameTrace (f.received b0) ++ [.poll]) s = .next t
      ∧ t.actions = [.reportRxOk f, .rxArm] ∧ t.result = some (.poll (.rxOk f)) := by
  obtain ⟨u, hu, hau⟩ := execAll_frameTrace_hasAssembled s (f.received_length b0).le
  refine ⟨u.begin.consumeBreak.acceptFrame f, ?_, rfl, rfl⟩
  rw [execAll_append [.poll] hu]
  exact execAll_cons [] (execPoll_accepts hau hsync hck)

/-- Settles O40: the frame carries the checksum CKSUM computes with its PID byte as seed, whatever that byte is. -/
theorem anyPidByteWithItsChecksumIsAccepted : Obligations.AnyPidByteWithItsChecksumIsAccepted := by
  unfold Obligations.AnyPidByteWithItsChecksumIsAccepted
  intro s b0 pid data
  obtain ⟨t, ht, -, hresult⟩ := execAll_frameTrace_poll_accepts s b0
    (f := ⟨0x55, pid, data, computeChecksum pid data.bytes⟩) rfl rfl
  exact ⟨computeChecksum pid data.bytes, t, returns_cksum pid data.bytes s, ht, hresult⟩

end Sys2Proof.Machine

/-! ## The frame encoder (spec 42_frame_encoder.md): the actions of a SEND -/

namespace Sys2Proof.Machine

/-- R85 written out: the break request, the pad and the sync byte, PID, data and checksum, then the report (R86, R88,
R90). -/
theorem sendActions_eq (id : Ident) (data : Payload) :
    sendActions id data =
      [.txBreak, .txByte 0x00, .txByte 0x55, .txByte (encodePid id), .txByte data.d0, .txByte data.d1,
        .txByte data.d2, .txByte data.d3, .txByte data.d4, .txByte (computeChecksum (encodePid id) data.bytes),
        .reportSent ⟨0x55, encodePid id, data, computeChecksum (encodePid id) data.bytes⟩] := rfl

/-- Settles O23: the PID and the checksum on the wire are the ones ENCPID and CKSUM return, and SEND changes no field
but its two outputs. -/
theorem sendEmitsTheFrameInWireOrder : Obligations.SendEmitsTheFrameInWireOrder := by
  unfold Obligations.SendEmitsTheFrameInWireOrder
  intro id data s
  refine ⟨encodePid id, computeChecksum (encodePid id) data.bytes, returns_encpid id s,
    returns_cksum (encodePid id) data.bytes s, ?_⟩
  rw [exec_send, sendActions_eq]

end Sys2Proof.Machine

/-! ## The frame decoder (spec 43_frame_decoder.md): BRK, RXB and the arming of reception -/

namespace Sys2Proof.Machine

/-! ### BRK (R96, R103, R105) -/

/-- BRK as one equation (R96). -/
theorem exec_brk (s : State) : exec .brk s = .next { s with
    receiving := true, cur := 0#4, brkDetected := true, rxArmed := true, actions := [.rxArm], result := none } := rfl

/-- Settles O25: it is BRK's equation. -/
theorem brkRestartsAssembly : Obligations.BrkRestartsAssembly := by
  unfold Obligations.BrkRestartsAssembly
  exact exec_brk

/-- Settles O38: BRK sets the cursor to 0, so the POLL after it meets no complete frame. -/
theorem unpolledFrameIsLostToABreak : Obligations.UnpolledFrameIsLostToABreak := by
  unfold Obligations.UnpolledFrameIsLostToABreak
  intro s _
  exact ⟨_, _, exec_brk s, rfl, rfl, rfl, rfl, execPoll_noFrame rfl, rfl, rfl⟩

/-- Settles O26: the RXB after a BRK is a store at cursor 0. -/
theorem byteAfterBreakIsStoredAtIndexZero : Obligations.ByteAfterBreakIsStoredAtIndexZero := by
  unfold Obligations.ByteAfterBreakIsStoredAtIndexZero
  intro s b
  exact ⟨_, _, exec_brk s, rfl, execRxb_store rfl rfl (by simp) b, rfl, rfl, rfl, Memory.read_write_same ..,
    fun a ha => Memory.read_write_other _ b ha⟩

/-! ### RXB (R97, R30, R102) -/

/-- The delivery and the re-arm that follows it leave an armed state armed. -/
theorem State.deliver_arm_of_armed {s : State} (ha : s.rxArmed = true) :
    s.begin.deliver.arm = { s with actions := [.rxArm], result := none } := by
  cases s
  cases ha
  rfl

theorem exec_rxb_unarmed {s : State} (ha : s.rxArmed = false) (b : Byte) :
    exec (.rxb b) s = .next { s with actions := [], result := none } := execRxb_unarmed ha b

theorem exec_rxb_idle {s : State} (ha : s.rxArmed = true) (hr : s.receiving = false) (b : Byte) :
    exec (.rxb b) s = .next { s with actions := [.rxArm], result := none } := by
  rw [← State.deliver_arm_of_armed ha]
  exact execRxb_idle ha hr b

/-- Settles O27: one equation of RXB for each of the three cases. -/
theorem rxbStoresDiscardsOrDrops : Obligations.RxbStoresDiscardsOrDrops := by
  unfold Obligations.RxbStoresDiscardsOrDrops
  intro s b
  refine ⟨fun ha => exec_rxb_unarmed ha b, fun ha hr => exec_rxb_idle ha hr b, fun ha hr hc => ?_⟩
  refine ⟨_, execRxb_store ha hr hc b, Memory.read_write_same .., fun a h => Memory.read_write_other _ b h,
    cursor_succ hc, hr, rfl, rfl, rfl, ?_, ?_⟩
  · simp [cursor_succ hc]
  · simp [cursor_succ hc]

/-- Settles O29, by induction on the bytes: the first one changes only the outputs, so the state is armed and IDLE
again before the next. -/
theorem idleConsumesAnyNumberOfBytes : Obligations.IdleConsumesAnyNumberOfBytes := by
  unfold Obligations.IdleConsumesAnyNumberOfBytes
  intro bytes
  induction bytes with
  | nil => exact fun _ _ _ hne => absurd rfl hne
  | cons b bytes ih =>
    intro s hr ha _
    refine (execAll_cons (feed bytes) (exec_rxb_idle ha hr b)).trans ?_
    by_cases hnil : bytes = []
    · subst hnil
      rfl
    · exact ih { s with actions := [.rxArm], result := none } hr ha hnil

/-! ### Reception is armed (R101) -/

/-- A POLL that meets the invariant ends armed: with a frame it re-arms, without one reception was armed already. -/
theorem exec_poll_armed {s : State} (hs : s.Inv) : ∃ t : State, exec .poll s = .next t ∧ t.rxArmed = true := by
  obtain ⟨-, -, harm, -⟩ := hs
  obtain ⟨hcomplete, hp⟩ | ⟨-, rep, r, hp, -⟩ := execPoll_cases s
  · refine ⟨_, hp, ?_⟩
    by_contra hunarmed
    obtain ⟨hr, hc⟩ := harm.mp (by simpa using hunarmed)
    have hfull : s.complete = true := s.complete_iff.mpr ⟨hr, by simp [hc]⟩
    simp [hfull] at hcomplete
  · exact ⟨_, hp, rfl⟩

/-- An RXB that meets the invariant ends unarmed exactly while ASSEMBLING with cursor 8, where it stores the ninth
byte, or 9, where it is dropped. -/
theorem exec_rxb_unarmed_iff {s : State} (hs : s.Inv) (b : Byte) :
    ∃ t : State, exec (.rxb b) s = .next t ∧ (t.rxArmed = false ↔ s.receiving = true ∧ 8 ≤ s.cur.toNat) := by
  obtain ⟨hle, -, harm, -⟩ := hs
  obtain ⟨ha, hx⟩ | ⟨ha, hr, hx⟩ | ⟨ha, hr, hc, hx⟩ | ⟨ha, hr, hc, -⟩ := execRxb_cases s b
  · obtain ⟨hr, hc⟩ := harm.mp ha
    exact ⟨_, hx, by simp [ha, hr, hc]⟩
  · exact ⟨_, hx, by simp [ha, hr]⟩
  · refine ⟨_, hx, ?_⟩
    simp only [hr, decide_eq_false_iff_not, true_and]
    omega
  · have hnine : s.cur = 9#4 := BitVec.eq_of_toNat_eq (Nat.le_antisymm hle hc)
    exact absurd (harm.mpr ⟨hr, hnine⟩) (by simp [ha])

/-- Only RESET, BRK and POLL arm an unarmed reception. -/
theorem exec_arms_unarmed {i : Instr} {s t : State} (h : exec i s = .next t) (hs : s.rxArmed = false)
    (ht : t.rxArmed = true) : i = .reset ∨ i = .brk ∨ i = .poll := by
  cases i with
  | reset => exact .inl rfl
  | brk => exact .inr (.inl rfl)
  | poll => exact .inr (.inr rfl)
  | rxb b =>
    rw [exec_rxb_unarmed hs] at h
    cases h
    exact absurd (hs.symm.trans ht) Bool.false_ne_true
  | nop | parity | encpid | decpid | cksum | ckvfy | send =>
    cases h
    exact absurd (hs.symm.trans ht) Bool.false_ne_true

/-- Settles O42, one decoder operation at a time. -/
theorem receptionIsArmedUnlessAFrameIsComplete : Obligations.ReceptionIsArmedUnlessAFrameIsComplete := by
  unfold Obligations.ReceptionIsArmedUnlessAFrameIsComplete
  refine ⟨fun s i hs hi => ?_, fun s t i => exec_arms_unarmed⟩
  obtain rfl | rfl | rfl | ⟨b, rfl⟩ := hi
  · exact ⟨_, rfl, by simp⟩
  · exact ⟨_, exec_brk s, by simp⟩
  · obtain ⟨t, ht, harmed⟩ := exec_poll_armed hs
    exact ⟨t, ht, by simp [harmed]⟩
  · obtain ⟨t, ht, hiff⟩ := exec_rxb_unarmed_iff hs b
    exact ⟨t, ht, by simp [hiff]⟩

/-! ### A trace after a break (R104, I-4 of R18)

`State.SinceBreak` says what a state holds after a BRK and a trace. BRK establishes it for the empty trace, and every
operation at the end of the trace keeps it: RXB by its store or its drop, any other by touching no register of the
assembly. -/

/-- An RXB that completes writes BUF at the cursor only, and not the port. -/
theorem exec_rxb_frame {s t : State} {b : Byte} (h : exec (.rxb b) s = .next t) :
    t.port = s.port ∧ ∀ a : Nat, a ≠ s.cur.toNat → t.buf.read a = s.buf.read a := by
  obtain ⟨-, hx⟩ | ⟨-, -, hx⟩ | ⟨-, -, -, hx⟩ | ⟨-, -, -, hx⟩ := execRxb_cases s b
  · cases hx.symm.trans h
    exact ⟨rfl, fun _ _ => rfl⟩
  · cases hx.symm.trans h
    exact ⟨rfl, fun _ _ => rfl⟩
  · cases hx.symm.trans h
    exact ⟨rfl, fun _ ha => Memory.read_write_other _ b ha⟩
  · cases hx.symm.trans h

/-- No operation writes the command port (log 1). -/
theorem exec_port {i : Instr} {s t : State} (h : exec i s = .next t) : t.port = s.port := by
  cases i with
  | rxb b => exact (exec_rxb_frame h).1
  | poll =>
    obtain ⟨-, hp⟩ | ⟨-, rep, r, hp, -⟩ := execPoll_cases s <;>
    · cases hp.symm.trans h
      rfl
  | nop | reset | parity | encpid | decpid | cksum | ckvfy | send | brk =>
    cases h
    rfl

theorem receivedBytes_append (before after : List Instr) :
    receivedBytes (before ++ after) = receivedBytes before ++ receivedBytes after := by
  induction before with
  | nil => rfl
  | cons i before ih => cases i <;> simp [receivedBytes, ih]

/-- The state after a BRK from `s₀` and the operations `ops`, none of them a BRK, a RESET or a POLL of a complete
frame. -/
structure State.SinceBreak (s₀ : State) (ops : List Instr) (s : State) : Prop where
  assembled : s.HasAssembled ((receivedBytes ops).take 9)
  kept : ∀ a : Nat, (receivedBytes ops).length ≤ a ∨ 9 ≤ a → s.buf.read a = s₀.buf.read a
  flag : s.brkDetected = true ↔ Instr.poll ∉ ops
  port : s.port = s₀.port

theorem exec_brk_sinceBreak (s : State) : ∃ t : State, exec .brk s = .next t ∧ s.SinceBreak [] t := by
  obtain ⟨t, ht, hat⟩ := exec_brk_hasAssembled s
  refine ⟨t, ht, { assembled := hat, kept := ?_, flag := ?_, port := exec_port ht }⟩ <;>
  · cases ht
    simp

/-- The registers of the assembly are those of another state. -/
structure State.SameAssembly (s t : State) : Prop where
  buf : t.buf = s.buf
  cur : t.cur = s.cur
  receiving : t.receiving = s.receiving
  rxArmed : t.rxArmed = s.rxArmed

theorem State.sameAssembly_outputs (s : State) (acts : List Action) (res : Option Result) :
    s.SameAssembly { s with actions := acts, result := res } := ⟨rfl, rfl, rfl, rfl⟩

theorem State.SameAssembly.hasAssembled {s t : State} (h : s.SameAssembly t) {bytes : List Byte}
    (hs : s.HasAssembled bytes) : t.HasAssembled bytes where
  receiving := h.receiving.trans hs.receiving
  cur := by rw [h.cur, hs.cur]
  armed := h.rxArmed.trans hs.armed
  stored := fun k b hk => by rw [h.buf, hs.stored k b hk]

/-- An operation that presents no byte, starts no assembly and ends none touches no register of the assembly. -/
theorem exec_sameAssembly {i : Instr} {s : State} (hbrk : i ≠ .brk) (hreset : i ≠ .reset)
    (hrxb : ∀ b, i ≠ .rxb b) (hpoll : i = .poll → s.complete = false) :
    ∃ t : State, exec i s = .next t ∧ s.SameAssembly t := by
  cases i with
  | brk => exact absurd rfl hbrk
  | reset => exact absurd rfl hreset
  | rxb b => exact absurd rfl (hrxb b)
  | poll => exact ⟨_, execPoll_noFrame (hpoll rfl), rfl, rfl, rfl, rfl⟩
  | nop | parity | encpid | decpid | cksum | ckvfy | send => exact ⟨_, rfl, rfl, rfl, rfl, rfl⟩

theorem receivedBytes_singleton_of_not_rxb {i : Instr} (h : ∀ b, i ≠ .rxb b) : receivedBytes [i] = [] := by
  cases i with
  | rxb b => exact absurd rfl (h b)
  | nop | reset | parity | encpid | decpid | cksum | ckvfy | send | brk | poll => rfl

section
variable {s₀ s : State} {ops : List Instr} (h : s₀.SinceBreak ops s)
include h

theorem State.SinceBreak.cur_eq : s.cur.toNat = min (receivedBytes ops).length 9 := by
  rw [h.assembled.cur, List.length_take, min_comm]

/-- RXB after a break: the byte is stored behind the others, or dropped where nine have been presented. -/
theorem State.SinceBreak.exec_rxb (b : Byte) : ∃ t : State, exec (.rxb b) s = .next t
    ∧ t.HasAssembled ((receivedBytes ops ++ [b]).take 9)
    ∧ ∀ a : Nat, (receivedBytes ops ++ [b]).length ≤ a ∨ 9 ≤ a → t.buf.read a = s.buf.read a := by
  have hcur := h.cur_eq
  by_cases hlen : (receivedBytes ops).length < 9
  · have hassembled : s.HasAssembled (receivedBytes ops) := by
      simpa [List.take_of_length_le hlen.le] using h.assembled
    obtain ⟨t, ht, hat⟩ := exec_rxb_hasAssembled hassembled hlen b
    refine ⟨t, ht, ?_, fun a ha => (exec_rxb_frame ht).2 a ?_⟩
    · rwa [List.take_of_length_le (by simpa using hlen)]
    · rw [List.length_append, List.length_singleton] at ha
      omega
  · have hunarmed : s.rxArmed = false := by
      rw [h.assembled.armed, List.length_take]
      simpa using hlen
    refine ⟨_, exec_rxb_unarmed hunarmed b, ?_, fun _ _ => rfl⟩
    rw [List.take_append_of_le_length (by omega)]
    exact (s.sameAssembly_outputs [] none).hasAssembled h.assembled

/-- One more operation of the trace, as to BUF and the assembly. -/
theorem State.SinceBreak.exec_assembles {i : Instr} (hbrk : i ≠ .brk) (hreset : i ≠ .reset)
    (hpoll : i = .poll → (receivedBytes ops).length < 9) : ∃ t : State, exec i s = .next t
      ∧ t.HasAssembled ((receivedBytes (ops ++ [i])).take 9)
      ∧ ∀ a : Nat, (receivedBytes (ops ++ [i])).length ≤ a ∨ 9 ≤ a → t.buf.read a = s.buf.read a := by
  rw [receivedBytes_append]
  by_cases hrxb : ∃ b, i = .rxb b
  · obtain ⟨b, rfl⟩ := hrxb
    exact h.exec_rxb b
  · have hrxb : ∀ b, i ≠ .rxb b := not_exists.mp hrxb
    have hcomplete (hi : i = .poll) : s.complete = false := by
      have hcur := h.cur_eq
      have hlen := hpoll hi
      have hnot : ¬(s.receiving = true ∧ 9 ≤ s.cur.toNat) := fun ⟨_, hnine⟩ => by omega
      simpa [← s.complete_iff] using hnot
    obtain ⟨t, ht, hsame⟩ := exec_sameAssembly hbrk hreset hrxb hcomplete
    rw [receivedBytes_singleton_of_not_rxb hrxb, List.append_nil]
    exact ⟨t, ht, hsame.hasAssembled h.assembled, fun a _ => by rw [hsame.buf]⟩

/-- The break flag over one more operation of the trace. -/
theorem State.SinceBreak.exec_flag {i : Instr} {t : State} (hbrk : i ≠ .brk) (hreset : i ≠ .reset)
    (ht : exec i s = .next t) : t.brkDetected = true ↔ Instr.poll ∉ ops ++ [i] := by
  rw [exec_brkDetected ht, breakFlagAfter, if_neg hbrk]
  by_cases hpoll : i = .poll
  · simp [hpoll]
  · simp [hpoll, hreset, h.flag, Ne.symm hpoll]

/-- Every operation allowed after the break keeps what holds since the break. -/
theorem State.SinceBreak.exec_keeps {i : Instr} (hbrk : i ≠ .brk) (hreset : i ≠ .reset)
    (hpoll : i = .poll → (receivedBytes ops).length < 9) :
    ∃ t : State, exec i s = .next t ∧ s₀.SinceBreak (ops ++ [i]) t := by
  obtain ⟨t, ht, hassembled, hkept⟩ := h.exec_assembles hbrk hreset hpoll
  refine ⟨t, ht,
    { assembled := hassembled
      kept := fun a ha => ?_
      flag := h.exec_flag hbrk hreset ht
      port := (exec_port ht).trans h.port }⟩
  have hbefore : (receivedBytes ops).length ≤ a ∨ 9 ≤ a := by
    rw [receivedBytes_append, List.length_append] at ha
    omega
  rw [hkept a ha, h.kept a hbefore]

/-- The k-th byte presented stands at index k - 1. -/
theorem State.SinceBreak.read_eq {k : Nat} (hk : k < (receivedBytes ops).length) (hnine : k < 9) :
    s.buf.read k = (receivedBytes ops).getD k 0 := by
  refine h.assembled.stored k _ ?_
  rw [List.getElem?_take_of_lt hnine, List.getD_eq_getElem _ _ hk, List.getElem?_eq_getElem hk]

theorem State.SinceBreak.rxArmed_iff : s.rxArmed = true ↔ (receivedBytes ops).length < 9 := by
  rw [h.assembled.armed, List.length_take]
  simp

end

/-- A trace after a break, by induction on the trace from its end: the last operation meets what the ones before it
left. -/
theorem execAll_brk_sinceBreak (s : State) (ops : List Instr) (hops : ∀ i ∈ ops, i ≠ .brk ∧ i ≠ .reset)
    (hpoll : ∀ before after : List Instr, ops = before ++ .poll :: after → (receivedBytes before).length < 9) :
    ∃ t : State, execAll (.brk :: ops) s = .next t ∧ s.SinceBreak ops t := by
  induction ops using List.reverseRecOn with
  | nil =>
    obtain ⟨t, ht, hst⟩ := exec_brk_sinceBreak s
    exact ⟨t, execAll_cons [] ht, hst⟩
  | append_singleton ops i ih =>
    obtain ⟨u, hu, hsu⟩ := ih (fun j hj => hops j (List.mem_append_left _ hj))
      (fun before after h => hpoll before (after ++ [i]) (by simp [h]))
    obtain ⟨hbrk, hreset⟩ := hops i (by simp)
    obtain ⟨t, ht, hst⟩ := hsu.exec_keeps hbrk hreset (fun hi => hpoll ops [] (by rw [hi]))
    refine ⟨t, ?_, hst⟩
    rw [← List.cons_append, execAll_append [i] hu]
    exact execAll_cons [] ht

/-- Settles O30: the statement is `State.SinceBreak` clause by clause. -/
theorem frameBytesAreStoredInArrivalOrder : Obligations.FrameBytesAreStoredInArrivalOrder := by
  unfold Obligations.FrameBytesAreStoredInArrivalOrder
  intro ops s hops hpoll
  obtain ⟨t, ht, hst⟩ := execAll_brk_sinceBreak s ops hops hpoll
  exact ⟨t, ht, hst.cur_eq, hst.assembled.receiving, hst.rxArmed_iff, fun k => hst.read_eq, hst.kept, hst.flag,
    hst.port⟩

end Sys2Proof.Machine

/-! ## The exceptional paths (spec 60_exceptions.md): the frame errors of POLL and the order of coincident requests -/

namespace Sys2Proof.Machine

/-! ### The frame errors (R120, R121, R124) -/

/-- POLL of a complete frame that VALIDATE rejects raises the error: its report, then IDLE and the re-arm. -/
theorem exec_poll_error {s : State} {e : FrameError} (hr : s.receiving = true) (hc : 9 ≤ s.cur.toNat)
    (he : validate s.buf = .error e) :
    exec .poll s = .next { s with
      receiving := false, cur := 0#4, brkDetected := false, rxArmed := true
      actions := [e.report, .rxArm], result := some (.poll e.pollResult) } := by
  have hprocess : processFrame s.begin.consumeBreak = s.begin.consumeBreak.raiseFrameError e := by
    simp only [processFrame, State.consumeBreak_buf, State.begin_buf, he]
  refine (execPoll_complete (s.complete_iff.mpr ⟨hr, hc⟩)).trans ?_
  rw [hprocess]
  rfl

/-- Settles O33: VALIDATE looks at the sync byte first, so a wrong one is its error whatever the checksum byte. -/
theorem pollRaisesSyncError : Obligations.PollRaisesSyncError := by
  unfold Obligations.PollRaisesSyncError
  intro s hr hc hsync
  exact ⟨exec_poll_error hr hc (validate_sync hsync), rfl⟩

/-! ### Coincident requests (R129) -/

/-- Each of the three requests contributes its own operation, in the order byte, break, poll. -/
theorem Requests.serialised_map_operation (r : Requests) :
    r.serialised.map Signal.operation
      = r.byte.toList.map .rxb ++ (if r.brk then [.brk] else []) ++ (if r.poll then [.poll] else []) := by
  obtain ⟨byte, brk, poll⟩ := r
  simp only [Requests.serialised, List.map_append, apply_ite (List.map Signal.operation)]
  cases byte <;> rfl

/-- Where the invariant holds a byte never faults, so the break behind it begins an assembly without a byte. -/
theorem execAll_rxb_brk_hasAssembled {s : State} (hs : s.Inv) (b : Byte) :
    ∃ t : State, execAll [.rxb b, .brk] s = .next t ∧ t.HasAssembled [] := by
  obtain ⟨u, hu, -⟩ := exec_rxb_unarmed_iff hs b
  obtain ⟨t, ht, hat⟩ := exec_brk_hasAssembled u
  exact ⟨t, (execAll_cons [.brk] hu).trans (execAll_cons [] ht), hat⟩

theorem State.HasAssembled.cur_eq_zero {s : State} (h : s.HasAssembled []) : s.cur = 0#4 :=
  BitVec.eq_of_toNat_eq h.cur

/-- POLL before the ninth byte answers `None`, without an action, and keeps the assembly. -/
theorem State.HasAssembled.exec_poll {s : State} {bytes : List Byte} (h : s.HasAssembled bytes)
    (hlen : bytes.length < 9) :
    ∃ t : State, exec .poll s = .next t ∧ t.HasAssembled bytes
      ∧ t.result = some (.poll .noFrame) ∧ t.actions = [] := by
  have hnot : ¬(s.receiving = true ∧ 9 ≤ s.cur.toNat) := fun ⟨_, hnine⟩ => by
    rw [h.cur] at hnine
    omega
  have hcomplete : s.complete = false := by simpa [← s.complete_iff] using hnot
  have hsame : s.SameAssembly (s.begin.consumeBreak.answer (.poll .noFrame)) := ⟨rfl, rfl, rfl, rfl⟩
  exact ⟨_, execPoll_noFrame hcomplete, hsame.hasAssembled h, rfl, rfl⟩

/-- A byte that ties with a break and perhaps a poll leaves an assembly without a byte: the break wins. -/
theorem execAll_byte_brk_poll_hasAssembled {s : State} (hs : s.Inv) (b : Byte) (poll : Bool) :
    ∃ t : State, execAll ([.rxb b, .brk] ++ if poll then [.poll] else []) s = .next t ∧ t.HasAssembled []
      ∧ (poll = true → t.result = some (.poll .noFrame) ∧ t.actions = []) := by
  obtain ⟨u, hu, hau⟩ := execAll_rxb_brk_hasAssembled hs b
  rw [execAll_append _ hu]
  cases poll with
  | false => exact ⟨u, rfl, hau, fun h => absurd h Bool.false_ne_true⟩
  | true =>
    obtain ⟨t, ht, hat, houtputs⟩ := hau.exec_poll (by simp)
    exact ⟨t, execAll_cons [] ht, hat, fun _ => houtputs⟩

/-- Settles O54: the order of the operations, and the empty assembly they leave when a byte ties with a break. -/
theorem coincidentRequestsAreByteBreakPoll : Obligations.CoincidentRequestsAreByteBreakPoll := by
  unfold Obligations.CoincidentRequestsAreByteBreakPoll
  refine ⟨fun byte brk poll => Requests.serialised_map_operation ⟨byte, brk, poll⟩, fun s b poll hs => ?_⟩
  obtain ⟨t, ht, hat, houtputs⟩ := execAll_byte_brk_poll_hasAssembled hs b poll
  refine ⟨t, ?_, hat.receiving, hat.cur_eq_zero, hat.armed, houtputs⟩
  rw [Requests.serialised_map_operation]
  exact ht

end Sys2Proof.Machine

/-! ## Reset and hazards (spec 70_reset_and_hazards.md): NOP, RESET and the reset values -/

namespace Sys2Proof.Machine

/-- NOP as one equation (R146). -/
theorem exec_nop (s : State) : exec .nop s = .next { s with actions := [], result := none } := rfl

/-- Settles O50: it is NOP's equation. -/
theorem nopChangesNothing : Obligations.NopChangesNothing := by
  unfold Obligations.NopChangesNothing
  exact exec_nop

/-- RESET as one equation (R145, R22). -/
theorem exec_reset (s : State) : exec .reset s = .next { s with
    receiving := false, cur := 0#4, brkDetected := false, rxArmed := true, actions := [.rxArm], result := none } := rfl

/-- An armed IDLE state with the cursor at 0 meets the invariant where BUF is in canonical form: I-3 holds because
neither of its sides does. -/
theorem State.inv_of_idle_armed {s : State} (hr : s.receiving = false) (hc : s.cur = 0#4) (ha : s.rxArmed = true)
    (hbuf : s.buf.wf = true) : s.Inv := by
  refine ⟨?_, fun _ => hc, ?_, hbuf⟩
  · simp [hc]
  · simp [ha, hr]

/-- Settles O51: RESET's equation, whose state is IDLE, armed and with the buffer of `s`. -/
theorem resetPutsTheDecoderInIdle : Obligations.ResetPutsTheDecoderInIdle := by
  unfold Obligations.ResetPutsTheDecoderInIdle
  intro s
  exact ⟨_, exec_reset s, rfl, fun hbuf => State.inv_of_idle_armed rfl rfl rfl hbuf⟩

/-- Of the fields of STATUS only RX_ARMED is set at reset (R19, R22). -/
theorem State.reset_status : State.reset.status = 0x80#8 := by decide

/-- RESET overwrites the registers of `State.reset` with the values they hold there. -/
theorem exec_reset_reset : exec .reset State.reset = .next State.reset := exec_reset State.reset

/-- Settles O52: the registers by definition, then the status word and RESET's equation at `State.reset`. -/
theorem resetStateHasTheStatedValues : Obligations.ResetStateHasTheStatedValues := by
  unfold Obligations.ResetStateHasTheStatedValues
  exact ⟨rfl, rfl, rfl, rfl, State.reset_status, rfl, exec_reset_reset⟩

end Sys2Proof.Machine

/-! ## The encoding (spec 30_encoding.md): the round trip and the commands that are cut short -/

namespace Sys2Proof

/-! ### Decoding undoes encoding, and encoding undoes decoding (R45 to R48) -/

/-- An identifier stands in its operand byte zero-extended, so the operand rule reads it back whole (R47 (a)). -/
theorem decodeOperands_operandBytes {i : Instr} (h : i.wellFormed = true) (rest : List Byte) :
    decodeOperands i.op (i.operandBytes ++ rest) = .ok (i, rest) := by
  cases i with
  | nop | reset | brk | poll | decpid | rxb => rfl
  | parity id | encpid id | send id data =>
    simp only [Instr.op, Instr.operandBytes, Payload.bytes, List.cons_append, List.nil_append, decodeOperands,
      identOperand_setWidth]
    rfl
  | cksum seed bytes | ckvfy seed candidate bytes =>
    simp only [Instr.op, Instr.operandBytes, List.cons_append, decodeOperands, lenByte_toNat h, splitBytes_append]

theorem decode_encode {i : Instr} (h : i.wellFormed = true) (rest : List Byte) :
    decode (encode i ++ rest) = .ok (i, rest) :=
  (decode_code i.op _).trans (decodeOperands_operandBytes h rest)

/-- Settles O1: the opcode selects the operation, whose operands are then read back. -/
theorem decodeReadsBackEveryCommand : Obligations.DecodeReadsBackEveryCommand := by
  unfold Obligations.DecodeReadsBackEveryCommand
  exact fun i rest h => decode_encode h rest

/-- As many bytes as a `len` byte counts fit it, and that byte is their number (R47 (b)). -/
theorem fitsLen_of_length_eq_toNat {bytes : List Byte} {len : Byte} (h : bytes.length = len.toNat) :
    fitsLen bytes = true ∧ BitVec.ofNat 8 bytes.length = len := by
  have hlen := len.isLt
  refine ⟨?_, ?_⟩
  · simp only [fitsLen, decide_eq_true_eq]
    omega
  · rw [h, BitVec.ofNat_toNat, BitVec.setWidth_eq]

theorem identOperand_map_ok {α : Type} {b : Byte} {f : Ident → α} {a : α}
    (h : (identOperand b).map f = .ok a) : ∃ id : Ident, b = id.setWidth 8 ∧ f id = a := by
  cases hb : identOperand b with
  | error why =>
    rw [hb] at h
    cases h
  | ok id =>
    rw [hb] at h
    exact ⟨id, identOperand_ok hb, Except.ok.inj h⟩

theorem decodeOperands_ok {op : Op} {bs rest : List Byte} {i : Instr} (h : decodeOperands op bs = .ok (i, rest)) :
    i.wellFormed = true ∧ i.op = op ∧ bs = i.operandBytes ++ rest := by
  unfold decodeOperands at h
  split at h
  -- PARITY, ENCPID and SEND: the identifier byte is an identifier's
  case h_5 | h_6 | h_11 =>
    obtain ⟨id, rfl, hid⟩ := identOperand_map_ok h
    cases hid
    exact ⟨rfl, rfl, rfl⟩
  -- CKSUM and CKVFY: the sequence bytes are as many as the `len` byte says
  case h_9 | h_10 =>
    split at h
    · next hsplit =>
      cases h
      obtain ⟨rfl, hlen⟩ := splitBytes_some hsplit
      obtain ⟨hfits, hcount⟩ := fitsLen_of_length_eq_toNat hlen
      exact ⟨hfits, rfl, by simp only [Instr.operandBytes, hcount, List.cons_append]⟩
    · cases h
  -- operand bytes are missing
  case h_12 => cases h
  -- the other operands are the bytes themselves
  all_goals
    cases h
    exact ⟨rfl, rfl, rfl⟩

theorem encode_of_decode {bs rest : List Byte} {i : Instr} (h : decode bs = .ok (i, rest)) :
    i.wellFormed = true ∧ bs = encode i ++ rest := by
  cases bs with
  | nil => cases h
  | cons b bs =>
    cases hop : Op.ofByte? b with
    | none => simp [decode_cons, hop] at h
    | some op =>
      simp only [decode_cons, hop] at h
      obtain ⟨hwf, rfl, rfl⟩ := decodeOperands_ok h
      exact ⟨hwf, by rw [Op.code_of_ofByte? hop, encode, List.cons_append]⟩

/-- Settles O2: the opcode byte is the operation's code, and the operand bytes are its operands'. -/
theorem decodedBytesAreTheEncoding : Obligations.DecodedBytesAreTheEncoding := by
  unfold Obligations.DecodedBytesAreTheEncoding
  exact fun bs i rest h => encode_of_decode h

/-- Settles O3: each list is the encoding of the operation beside it. -/
theorem commandBytesOfTheSpecDecode : Obligations.CommandBytesOfTheSpecDecode := by
  unfold Obligations.CommandBytesOfTheSpecDecode
  exact ⟨decode_encode (i := .nop) rfl [], decode_encode (i := .reset) rfl [],
    decode_encode (i := .parity 1) rfl [], decode_encode (i := .encpid 63) rfl [],
    decode_encode (i := .decpid 0x41) rfl [],
    decode_encode (i := .cksum 0xC1 [0x48, 0x65, 0x6C, 0x6C, 0x6F]) rfl [],
    decode_encode (i := .ckvfy 0xC1 0x49 [0x48, 0x65, 0x6C, 0x6C, 0x6F]) rfl [],
    decode_encode (i := .send 1 ⟨0x48, 0x65, 0x6C, 0x6C, 0x6F⟩) rfl [],
    decode_encode (i := .brk) rfl [0x41, 0x00], decode_encode (i := .rxb 0x55) rfl [0x42],
    decode_encode (i := .poll) rfl [0x42]⟩

/-! ### Commands cut short (log 7)

A part of a command does not decode to an operation, for then the whole command would decode to it as well; and it is
refused for nothing but its missing bytes, for the whole command would be refused for the same reason. -/

/-- An error is passed on whatever was to be done with the value. -/
theorem map_error_of_map_error {ε α β γ : Type} {x : Except ε α} {f : α → β} {e : ε} (h : x.map f = .error e)
    (g : α → γ) : x.map g = .error e := by
  cases x with
  | error e' => exact congrArg _ (Except.error.inj h)
  | ok a => cases h

/-- A refusal other than `incomplete` does not depend on the bytes that follow: it is that of the identifier byte. -/
theorem decodeOperands_error_append {op : Op} {bs : List Byte} {why : Reject}
    (h : decodeOperands op bs = .error why) (hwhy : why ≠ .incomplete) (more : List Byte) :
    decodeOperands op (bs ++ more) = .error why := by
  unfold decodeOperands at h
  split at h
  -- PARITY, ENCPID and SEND: the refusal is `identOperand`'s
  case h_5 | h_6 | h_11 => exact map_error_of_map_error h _
  -- CKSUM and CKVFY: the only refusal is for missing sequence bytes
  case h_9 | h_10 =>
    split at h
    · cases h
    · exact absurd (Except.error.inj h).symm hwhy
  -- operand bytes are missing
  case h_12 => exact absurd (Except.error.inj h).symm hwhy
  -- the other operations refuse nothing
  all_goals cases h

theorem decode_error_append {bs : List Byte} {why : Reject} (h : decode bs = .error why) (hwhy : why ≠ .incomplete)
    (more : List Byte) : decode (bs ++ more) = .error why := by
  cases bs with
  | nil => exact absurd (Except.error.inj h).symm hwhy
  | cons b bs =>
    cases hop : Op.ofByte? b with
    | none => simpa [decode_cons, hop] using h
    | some op =>
      simp only [List.cons_append, decode_cons, hop] at h ⊢
      exact decodeOperands_error_append h hwhy more

theorem decode_cut_short {i : Instr} (hwf : i.wellFormed = true) {bs missing : List Byte} (hmissing : missing ≠ [])
    (h : encode i = bs ++ missing) : decode bs = .error .incomplete := by
  have hwhole : decode (bs ++ missing) = .ok (i, []) := by
    rw [← h, ← decode_encode hwf [], List.append_nil]
  cases hbs : decode bs with
  | ok p =>
    obtain ⟨j, rest⟩ := p
    obtain ⟨hj, rfl⟩ := encode_of_decode hbs
    rw [List.append_assoc, decode_encode hj] at hwhole
    have hrest : rest ++ missing = [] := congrArg Prod.snd (Except.ok.inj hwhole)
    exact absurd (List.append_eq_nil_iff.mp hrest).2 hmissing
  | error why =>
    by_contra hwhy
    have herror := decode_error_append hbs (fun hinc => hwhy (hinc ▸ rfl)) missing
    cases herror.symm.trans hwhole

end Sys2Proof

namespace Sys2Proof.Machine

/-- Settles O6: a part of a command is refused by the decoder, and so by the step. -/
theorem partialCommandsAreRefused : Obligations.PartialCommandsAreRefused := by
  unfold Obligations.PartialCommandsAreRefused
  intro s i missing hwf hmissing hport h
  refine step_of_reject ?_
  rw [fetch_of_ne_nil hport]
  exact decode_cut_short hwf hmissing h

/-! ### The port (logs 1 and 2) -/

theorem step_of_decode {s : State} {i : Instr} {rest : List Byte} (h : decode s.port = .ok (i, rest)) :
    step s = exec i { s with port := rest } := by
  refine step_of_fetch ?_
  rw [fetch_of_ne_nil, h]
  intro hnil
  rw [hnil] at h
  cases h

/-- Settles O7: a port that decodes is not empty, so it is fetched from by the decoder. -/
theorem stepPerformsTheDecodedOperation : Obligations.StepPerformsTheDecodedOperation := by
  unfold Obligations.StepPerformsTheDecodedOperation
  exact fun s i rest h => step_of_decode h

/-- Settles O8: an empty port is fetched from as a NOP, which leaves it empty. -/
theorem stepWithNothingPresentedIsNop : Obligations.StepWithNothingPresentedIsNop := by
  unfold Obligations.StepWithNothingPresentedIsNop
  intro s hport
  have hfetch : fetch s.port = .ok (.nop, []) := by rw [hport]; rfl
  rw [step_of_fetch hfetch, ← hport]
  rfl

/-- An outcome with its port replaced, where it is a next state. -/
def outcomeWithPort (p : List Byte) : Host.Outcome State Fault Refusal → Host.Outcome State Fault Refusal
  | .next t => .next { t with port := p }
  | .fault r => .fault r
  | .refused r => .refused r

/-- RXB branches on RX_ARMED, RECEIVING and CUR alone. -/
theorem execRxb_setPort (b : Byte) (s : State) (p : List Byte) :
    execRxb b { s with port := p } = outcomeWithPort p (execRxb b s) := by
  obtain ⟨ha, -⟩ | ⟨ha, hr, -⟩ | ⟨ha, hr, hc, -⟩ | ⟨ha, hr, hc, -⟩ := execRxb_cases s b
  · rw [execRxb_unarmed ha, execRxb_unarmed (s := { s with port := p }) ha]
    rfl
  · rw [execRxb_idle ha hr, execRxb_idle (s := { s with port := p }) ha hr]
    rfl
  · rw [execRxb_store ha hr hc, execRxb_store (s := { s with port := p }) ha hr hc]
    rfl
  · rw [execRxb_fault ha hr hc, execRxb_fault (s := { s with port := p }) ha hr hc]
    rfl

/-- POLL branches on COMPLETE and on VALIDATE of BUF alone. -/
theorem execPoll_setPort (s : State) (p : List Byte) :
    execPoll { s with port := p } = outcomeWithPort p (execPoll s) := by
  cases hc : s.complete with
  | false =>
    rw [execPoll_noFrame hc, execPoll_noFrame (s := { s with port := p }) hc]
    rfl
  | true =>
    rw [execPoll_complete hc, execPoll_complete (s := { s with port := p }) hc]
    cases hv : validate s.buf <;>
    · simp only [processFrame, State.consumeBreak_buf, State.begin_buf, hv]
      rfl

/-- No operation depends on what stands on the port behind it. -/
theorem exec_setPort (i : Instr) (s : State) (p : List Byte) :
    exec i { s with port := p } = outcomeWithPort p (exec i s) := by
  cases i with
  | rxb b => exact execRxb_setPort b s p
  | poll => exact execPoll_setPort s p
  | nop | reset | parity | encpid | decpid | cksum | ckvfy | send | brk => rfl

theorem State.present_cons_decode {s : State} (hport : s.port = []) {i : Instr} (hwf : i.wellFormed = true)
    (ops : List Instr) : decode (s.present (i :: ops)).port = .ok (i, ops.flatMap encode) := by
  rw [State.present_port, hport, List.nil_append, List.flatMap_cons]
  exact decode_encode hwf _

/-- The first of the operations presented on an empty port is performed, and the others stay there. -/
theorem step_present_cons {s : State} (hport : s.port = []) {i : Instr} (hwf : i.wellFormed = true)
    (ops : List Instr) : step (s.present (i :: ops)) = outcomeWithPort (ops.flatMap encode) (exec i s) := by
  rw [step_of_decode (State.present_cons_decode hport hwf ops)]
  exact exec_setPort i s _

section
variable {s : State} (k : Nat)

theorem run_succ_of_next {t : State} (h : step s = .next t) :
    Host.Core.run core (k + 1) s = Host.Core.run core k t := by
  have h' : core.step s = .next t := h
  simp only [Host.Core.run, h']

theorem run_succ_of_fault {r : Fault} (h : step s = .fault r) : Host.Core.run core (k + 1) s = .fault r := by
  have h' : core.step s = .fault r := h
  simp only [Host.Core.run, h']

theorem run_succ_of_refused {r : Refusal} (h : step s = .refused r) :
    Host.Core.run core (k + 1) s = .refused r := by
  have h' : core.step s = .refused r := h
  simp only [Host.Core.run, h']

end

theorem execAll_cons_of_fault {i : Instr} {s : State} {r : Fault} (is : List Instr) (h : exec i s = .fault r) :
    execAll (i :: is) s = .fault r := by
  simp only [execAll, h]

theorem execAll_cons_of_refused {i : Instr} {s : State} {r : Refusal} (is : List Instr)
    (h : exec i s = .refused r) : execAll (i :: is) s = .refused r := by
  simp only [execAll, h]

@[simp] theorem State.present_nil (s : State) : s.present [] = s := by
  simp only [State.present, List.flatMap_nil, List.append_nil]

theorem run_present {ops : List Instr} {s : State} (hops : ∀ i ∈ ops, i.wellFormed = true) (hport : s.port = []) :
    Host.Core.run core ops.length (s.present ops) = execAll ops s := by
  induction ops generalizing s with
  | nil => exact congrArg _ s.present_nil
  | cons i ops ih =>
    obtain ⟨hi, hops⟩ := List.forall_mem_cons.mp hops
    have hstep := step_present_cons hport hi ops
    cases hx : exec i s with
    | next t =>
      rw [hx] at hstep
      have ht : t.port = [] := (exec_port hx).trans hport
      have hpresent : { t with port := ops.flatMap encode } = t.present ops := by
        rw [State.present, ht, List.nil_append]
      rw [List.length_cons, run_succ_of_next _ hstep, hpresent, ih hops ht, execAll_cons ops hx]
    | fault r =>
      rw [hx] at hstep
      exact (run_succ_of_fault _ hstep).trans (execAll_cons_of_fault ops hx).symm
    | refused r =>
      rw [hx] at hstep
      exact (run_succ_of_refused _ hstep).trans (execAll_cons_of_refused ops hx).symm

/-- Settles O9, by induction on the operations: each step takes one off the port. -/
theorem presentedOperationsRunInOrder : Obligations.PresentedOperationsRunInOrder := by
  unfold Obligations.PresentedOperationsRunInOrder
  exact fun ops s => run_present

/-! ### A sent frame on the port of a decoder (R93) -/

theorem sendActions_replay (id : Ident) (data : Payload) :
    (sendActions id data).filterMap Action.replay = frameTrace ((builtFrame id data).received Config.breakPad) := rfl

theorem frameTrace_poll_wellFormed (bytes : List Byte) :
    ∀ i ∈ frameTrace bytes ++ [.poll], i.wellFormed = true := by
  intro i hi
  simp only [frameTrace, feed, List.cons_append, List.mem_cons, List.mem_append, List.mem_map, List.not_mem_nil,
    or_false] at hi
  obtain rfl | ⟨b, -, rfl⟩ | rfl := hi <;> rfl

theorem frameTrace_received_poll_length (f : Frame) (b0 : Byte) :
    (frameTrace (f.received b0) ++ [Instr.poll]).length = 11 := rfl

theorem run_replayed_send (id : Ident) (data : Payload) {d : State} (hport : d.port = []) :
    Host.Core.run core 11 (d.present ((sendActions id data).filterMap Action.replay ++ [.poll]))
      = execAll (frameTrace ((builtFrame id data).received Config.breakPad) ++ [.poll]) d := by
  rw [sendActions_replay, ← run_present (frameTrace_poll_wellFormed _) hport, frameTrace_received_poll_length]

/-- Settles O24: the steps perform the replayed frame and the POLL in order, from any state of the decoder, and the
frame carries the sync byte and the checksum that VALIDATE asks for. -/
theorem loopbackDecodesEverySentFrame : Obligations.LoopbackDecodesEverySentFrame := by
  unfold Obligations.LoopbackDecodesEverySentFrame
  intro id data s d
  obtain ⟨u, hu, hactions, hresult⟩ := execAll_frameTrace_poll_accepts { d with port := [] } Config.breakPad
    (f := builtFrame id data) rfl rfl
  have hrun := run_replayed_send id data (d := { d with port := [] }) rfl
  exact ⟨encodePid id, computeChecksum (encodePid id) data.bytes,
    { s with actions := sendActions id data, result := none }, u, returns_encpid id s,
    returns_cksum (encodePid id) data.bytes s, exec_send id data s, hrun.trans hu, hresult, hactions⟩

end Sys2Proof.Machine

/-! ## The PID codec (spec 40_pid_codec.md): valid PIDs, the function table and what parity detects -/

namespace Sys2Proof.Machine

/-- A byte is its parity field standing on its identifier field (R40). -/
theorem pidOf_fields (pid : Byte) : pidOf (pidIdent pid) (pidParity pid) = pid := by
  rw [pidOf_eq_append, pidIdent, pidParity]
  exact (BitVec.extractLsb'_append_extractLsb'_eq_extractLsb' (Nat.zero_add 6).symm).trans BitVec.extractLsb'_eq_self

theorem pidParityOk_iff_parity (pid : Byte) :
    pidParityOk pid = true ↔ computeParity (pidIdent pid) = pidParity pid := by
  rw [pidParityOk, beq_iff_eq, eq_comm]

/-- The parity verdict is good exactly for the 64 PIDs (R62). -/
theorem pidParityOk_iff_encodePid (pid : Byte) : pidParityOk pid = true ↔ ∃ id : Ident, encodePid id = pid := by
  constructor
  · intro h
    refine ⟨pidIdent pid, ?_⟩
    rw [encodePid, (pidParityOk_iff_parity pid).mp h, pidOf_fields]
  · rintro ⟨id, rfl⟩
    exact pidParityOk_encodePid id

theorem pidIdent_getLsbD (pid : Byte) {k : Nat} (hk : k < 6) : (pidIdent pid).getLsbD k = pid.getLsbD k := by
  rw [pidIdent, BitVec.getLsbD_extractLsb', Nat.zero_add, decide_eq_true hk, Bool.true_and]

theorem returns_parity_iff {id : Ident} {s : State} {p : ParityBits} :
    Returns (.parity id) s (.parity p) ↔ computeParity id = p := by
  constructor
  · exact fun h => Result.parity.inj (returns_unique (returns_parity id s) h)
  · rintro rfl
    exact returns_parity id s

/-- Settles O12: the two readings of the verdict are `pidParityOk_iff_parity` and `pidParityOk_iff_encodePid`. -/
theorem decpidSplitsAndComparesParity : Obligations.DecpidSplitsAndComparesParity := by
  unfold Obligations.DecpidSplitsAndComparesParity
  intro pid s
  refine ⟨pidIdent pid, pidParityOk pid, returns_decpid pid s, fun k hk => pidIdent_getLsbD pid hk, ?_, ?_⟩
  · rw [returns_parity_iff]
    exact pidParityOk_iff_parity pid
  · simp only [returns_encpid_iff]
    exact pidParityOk_iff_encodePid pid

/-- Settles O14, by comparing the 64 entries. -/
theorem encpidAgreesWithThePrintedTable : Obligations.EncpidAgreesWithThePrintedTable := by
  unfold Obligations.EncpidAgreesWithThePrintedTable
  intro id s
  rw [returns_encpid_iff]
  revert id
  decide

/-! ### Flipped bits (Properties (a) and (b)) -/

/-- Flipping a parity bit breaks the comparison from one side. -/
theorem pidParityOk_flip_parityBit (id : Ident) :
    pidParityOk (encodePid id ^^^ (1#8 <<< 6)) = false ∧ pidParityOk (encodePid id ^^^ (1#8 <<< 7)) = false := by
  revert id
  decide

/-- Every identifier bit stands in one of the two sums of R60 or in both, so flipping it breaks the comparison from the
other side. -/
theorem pidParityOk_flip_identBit (id : Ident) {k : Nat} (hk : k < 6) :
    pidParityOk (encodePid id ^^^ (1#8 <<< k)) = false := by
  revert id
  interval_cases k <;> decide

theorem pidParityOk_flip (id : Ident) {k : Nat} (hk : k < 8) :
    pidParityOk (encodePid id ^^^ (1#8 <<< k)) = false := by
  obtain hident | rfl | rfl : k < 6 ∨ k = 6 ∨ k = 7 := by omega
  · exact pidParityOk_flip_identBit id hident
  · exact (pidParityOk_flip_parityBit id).1
  · exact (pidParityOk_flip_parityBit id).2

/-- Identifier bit 0 stands in the sum of p0 alone, so a flip of p0 hides its flip. -/
theorem pidParityOk_flip_bits_zero_and_six :
    pidParityOk (encodePid 0#6 ^^^ (1#8 <<< 0) ^^^ (1#8 <<< 6)) = true := by decide

theorem returns_decpid_of_pidParityOk {pid : Byte} {ok : Bool} (h : pidParityOk pid = ok) (s : State) :
    ∃ id : Ident, Returns (.decpid pid) s (.decpid id ok) := by
  subst h
  exact ⟨pidIdent pid, returns_decpid pid s⟩

/-- Settles O15: the verdict is bad on a PID with one bit flipped, and good on the PID of 0 with bits 0 and 6
flipped. -/
theorem pidParityDetectsEverySingleBitFlip : Obligations.PidParityDetectsEverySingleBitFlip := by
  unfold Obligations.PidParityDetectsEverySingleBitFlip
  intro id s
  refine ⟨encodePid id, returns_encpid id s,
    fun k hk => returns_decpid_of_pidParityOk (pidParityOk_flip id hk) s, ?_⟩
  rintro rfl
  exact returns_decpid_of_pidParityOk pidParityOk_flip_bits_zero_and_six s

end Sys2Proof.Machine

/-! ## The checksum codec (spec 41_checksum_codec.md): the closed form and its consequences

Everything the spec says of the checksum follows from the total of the seed and the bytes as a natural number: the
running sum is a function of it (`endAroundCarry`), and the total's remainder by 255 can be read back from the sum. -/

namespace Sys2Proof.Machine

/-- The total T of the seed and all bytes, as a natural number. -/
def checksumTotal (seed : Byte) (bytes : List Byte) : Nat := seed.toNat + (bytes.map BitVec.toNat).sum

/-- The closed form of the running sum, as a function of the total. -/
def endAroundCarry (T : Nat) : Nat := if T = 0 then 0 else if T % 255 = 0 then 255 else T % 255

theorem checksumTotal_concat (seed : Byte) (bytes : List Byte) (b : Byte) :
    checksumTotal seed (bytes ++ [b]) = checksumTotal seed bytes + b.toNat := by
  simp only [checksumTotal, List.map_append, List.sum_append, List.map_cons, List.map_nil, List.sum_singleton,
    Nat.add_assoc]

theorem endAroundCarry_of_le {T : Nat} (h : T ≤ 255) : endAroundCarry T = T := by
  unfold endAroundCarry
  split_ifs <;> omega

/-- One byte more: the sum takes it in with the one subtraction of R70. -/
theorem endAroundCarry_add {b : Nat} (T : Nat) (hb : b ≤ 255) :
    endAroundCarry (T + b)
      = if 256 ≤ endAroundCarry T + b then endAroundCarry T + b - 255 else endAroundCarry T + b := by
  unfold endAroundCarry
  split_ifs <;> omega

theorem endAroundCarry_mod (T : Nat) : endAroundCarry T % 255 = T % 255 := by
  unfold endAroundCarry
  split_ifs <;> omega

theorem checksumFold_eq_endAroundCarry (seed : Byte) (bytes : List Byte) :
    (checksumFold seed bytes).toNat = endAroundCarry (checksumTotal seed bytes) := by
  induction bytes using List.reverseRecOn with
  | nil =>
    have hseed := seed.isLt
    rw [checksumFold_nil, BitVec.toNat_setWidth, checksumTotal, List.map_nil, List.sum_nil,
      endAroundCarry_of_le (by omega)]
    omega
  | append_singleton bytes b ih =>
    rw [checksumFold_concat, foldStep_toNat (checksumFold_le seed bytes), ih, checksumTotal_concat,
      endAroundCarry_add _ (Nat.le_of_lt_succ b.isLt)]

/-- Settles O17: 255 less the checksum is the running sum. -/
theorem checksumHasTheClosedForm : Obligations.ChecksumHasTheClosedForm := by
  unfold Obligations.ChecksumHasTheClosedForm
  intro seed bytes s
  refine ⟨computeChecksum seed bytes, returns_cksum seed bytes s, ?_⟩
  rintro T rfl
  rw [← checksumFold_toNat]
  exact checksumFold_eq_endAroundCarry seed bytes

theorem computeChecksum_eq_iff {seed seed' : Byte} {bytes bytes' : List Byte} :
    computeChecksum seed bytes = computeChecksum seed' bytes'
      ↔ endAroundCarry (checksumTotal seed bytes) = endAroundCarry (checksumTotal seed' bytes') := by
  have hle := checksumFold_le seed bytes
  have hle' := checksumFold_le seed' bytes'
  rw [BitVec.toNat_eq, computeChecksum_toNat, computeChecksum_toNat, ← checksumFold_eq_endAroundCarry,
    ← checksumFold_eq_endAroundCarry]
  omega

theorem computeChecksum_eq_of_total {seed seed' : Byte} {bytes bytes' : List Byte}
    (h : checksumTotal seed bytes = checksumTotal seed' bytes') :
    computeChecksum seed bytes = computeChecksum seed' bytes' :=
  computeChecksum_eq_iff.mpr (congrArg endAroundCarry h)

/-- Two inputs with the same checksum return it in the form the statements ask for. -/
theorem returns_cksum_both {seed seed' : Byte} {bytes bytes' : List Byte}
    (h : computeChecksum seed bytes = computeChecksum seed' bytes') (s : State) :
    ∃ c : Byte, Returns (.cksum seed bytes) s (.cksum c) ∧ Returns (.cksum seed' bytes') s (.cksum c) := by
  refine ⟨computeChecksum seed bytes, returns_cksum seed bytes s, ?_⟩
  rw [h]
  exact returns_cksum seed' bytes' s

theorem checksumTotal_perm {seed seed' : Byte} {bytes bytes' : List Byte}
    (h : List.Perm (seed :: bytes) (seed' :: bytes')) : checksumTotal seed bytes = checksumTotal seed' bytes' :=
  (h.map BitVec.toNat).sum_nat

/-- Settles O18: the total does not depend on the order. -/
theorem checksumIgnoresByteOrder : Obligations.ChecksumIgnoresByteOrder := by
  unfold Obligations.ChecksumIgnoresByteOrder
  exact fun seed seed' bytes bytes' s h => returns_cksum_both (computeChecksum_eq_of_total (checksumTotal_perm h)) s

/-! ### Detected errors: one flipped bit (beside R77) -/

/-- Bytes that 255 does not tell apart are equal, or 0x00 and 0xFF. -/
theorem eq_or_xor_eq_of_mod_eq {b b' : Byte} (h : b.toNat % 255 = b'.toNat % 255) : b = b' ∨ b ^^^ b' = 0xFF#8 := by
  have hb := b.isLt
  have hb' := b'.isLt
  obtain heq | ⟨h0, h1⟩ | ⟨h0, h1⟩ : b.toNat = b'.toNat ∨ (b.toNat = 0 ∧ b'.toNat = 255)
      ∨ (b.toNat = 255 ∧ b'.toNat = 0) := by omega
  · exact .inl (BitVec.eq_of_toNat_eq heq)
  · rw [BitVec.eq_of_toNat_eq (y := 0x00#8) h0, BitVec.eq_of_toNat_eq (y := 0xFF#8) h1]
    exact .inr rfl
  · rw [BitVec.eq_of_toNat_eq (y := 0xFF#8) h0, BitVec.eq_of_toNat_eq (y := 0x00#8) h1]
    exact .inr rfl

/-- One bit of a byte is neither no bit nor all eight. -/
theorem singleBit_ne {k : Nat} (hk : k < 8) : 1#8 <<< k ≠ 0#8 ∧ 1#8 <<< k ≠ 0xFF#8 := by
  interval_cases k <;> decide

theorem flip_ne_self (b : Byte) {k : Nat} (hk : k < 8) : b ≠ b ^^^ (1#8 <<< k) := by
  intro h
  refine (singleBit_ne hk).1 ?_
  rw [← xor_cancel_left b (1#8 <<< k), ← h, BitVec.xor_self]

theorem flip_mod_ne (b : Byte) {k : Nat} (hk : k < 8) : b.toNat % 255 ≠ (b ^^^ (1#8 <<< k)).toNat % 255 := by
  intro h
  obtain heq | hxor := eq_or_xor_eq_of_mod_eq h
  · exact flip_ne_self b hk heq
  · rw [xor_cancel_left] at hxor
    exact (singleBit_ne hk).2 hxor

theorem checksumTotal_insert (seed : Byte) (before after : List Byte) (b : Byte) :
    checksumTotal seed (before ++ b :: after) = checksumTotal seed (before ++ after) + b.toNat := by
  simp only [checksumTotal, List.map_append, List.map_cons, List.sum_append, List.sum_cons]
  omega

/-- Two inputs that differ in one value, and by no multiple of 255, have different checksums. -/
theorem computeChecksum_ne_of_total {seed seed' : Byte} {bytes bytes' : List Byte} {b b' : Byte} (T : Nat)
    (h : checksumTotal seed bytes = T + b.toNat) (h' : checksumTotal seed' bytes' = T + b'.toNat)
    (hne : b.toNat % 255 ≠ b'.toNat % 255) : computeChecksum seed' bytes' ≠ computeChecksum seed bytes := by
  intro hck
  have hmod := congrArg (· % 255) (computeChecksum_eq_iff.mp hck)
  simp only [endAroundCarry_mod, h, h'] at hmod
  omega

theorem computeChecksum_flip_seed (seed : Byte) (bytes : List Byte) {k : Nat} (hk : k < 8) :
    computeChecksum (seed ^^^ (1#8 <<< k)) bytes ≠ computeChecksum seed bytes :=
  computeChecksum_ne_of_total (bytes.map BitVec.toNat).sum (Nat.add_comm _ _) (Nat.add_comm _ _) (flip_mod_ne seed hk)

theorem computeChecksum_flip_byte (seed : Byte) (before after : List Byte) (b : Byte) {k : Nat} (hk : k < 8) :
    computeChecksum seed (before ++ (b ^^^ (1#8 <<< k)) :: after) ≠ computeChecksum seed (before ++ b :: after) :=
  computeChecksum_ne_of_total _ (checksumTotal_insert ..) (checksumTotal_insert ..) (flip_mod_ne b hk)

theorem returns_ckvfy_false {seed candidate : Byte} {bytes : List Byte} (h : computeChecksum seed bytes ≠ candidate)
    (s : State) : Returns (.ckvfy seed candidate bytes) s (.ckvfy false) := by
  rw [← decide_eq_false h, ← verifyChecksum_eq_decide]
  exact returns_ckvfy seed candidate bytes s

theorem returns_cksum_iff {seed c : Byte} {bytes : List Byte} {s : State} :
    Returns (.cksum seed bytes) s (.cksum c) ↔ computeChecksum seed bytes = c := by
  constructor
  · exact fun h => Result.cksum.inj (returns_unique (returns_cksum seed bytes s) h)
  · rintro rfl
    exact returns_cksum seed bytes s

/-- Settles O20: a flipped bit changes its value by no multiple of 255, so the recomputed checksum moves; a flipped
candidate moves itself. -/
theorem checksumDetectsEverySingleBitFlip : Obligations.ChecksumDetectsEverySingleBitFlip := by
  unfold Obligations.ChecksumDetectsEverySingleBitFlip
  intro seed c bytes k s hk hc
  obtain rfl := returns_cksum_iff.mp hc
  refine ⟨returns_ckvfy_false (flip_ne_self _ hk) s,
    returns_ckvfy_false (computeChecksum_flip_seed seed bytes hk) s, ?_⟩
  rintro before after b rfl
  exact returns_ckvfy_false (computeChecksum_flip_byte seed before after b hk) s

/-! ### Reachable results (R75) -/

theorem endAroundCarry_eq_zero_iff (T : Nat) : endAroundCarry T = 0 ↔ T = 0 := by
  constructor
  · intro h
    unfold endAroundCarry at h
    split_ifs at h <;> omega
  · rintro rfl
    rfl

theorem endAroundCarry_eq_max_iff (T : Nat) : endAroundCarry T = 255 ↔ 0 < T ∧ 255 ∣ T := by
  constructor
  · intro h
    unfold endAroundCarry at h
    split_ifs at h <;> omega
  · rintro ⟨hpos, hdvd⟩
    rw [endAroundCarry, if_neg hpos.ne', if_pos (Nat.mod_eq_zero_of_dvd hdvd)]

theorem checksumTotal_eq_zero_iff (seed : Byte) (bytes : List Byte) :
    checksumTotal seed bytes = 0 ↔ seed = 0#8 ∧ ∀ b ∈ bytes, b = 0#8 := by
  simp [checksumTotal, List.sum_eq_zero_iff, BitVec.toNat_eq]

/-- The checksum is read off the closed form. -/
theorem computeChecksum_eq_iff_endAroundCarry (seed : Byte) (bytes : List Byte) (c : Byte) :
    computeChecksum seed bytes = c ↔ endAroundCarry (checksumTotal seed bytes) = 255 - c.toNat := by
  have hle := checksumFold_le seed bytes
  have hc := c.isLt
  rw [BitVec.toNat_eq, computeChecksum_toNat, ← checksumFold_eq_endAroundCarry]
  omega

/-- Settles O21: 0xFF stands for the sum 0, 0x00 for the sum 255, and a checksum of no bytes is the complement of its
seed. -/
theorem checksumReachesEveryValue : Obligations.ChecksumReachesEveryValue := by
  unfold Obligations.ChecksumReachesEveryValue
  refine ⟨fun seed bytes s => ⟨computeChecksum seed bytes, returns_cksum seed bytes s, ?_, ?_⟩, fun c s => ?_⟩
  · rw [computeChecksum_eq_iff_endAroundCarry, ← checksumTotal_eq_zero_iff]
    exact endAroundCarry_eq_zero_iff _
  · rw [computeChecksum_eq_iff_endAroundCarry]
    exact endAroundCarry_eq_max_iff _
  · refine ⟨~~~c, returns_cksum_iff.mpr ?_⟩
    rw [computeChecksum_nil, BitVec.not_not]

/-! ### Errors that are not detected (R77) -/

theorem endAroundCarry_add_max {T : Nat} (h : T ≠ 0) : endAroundCarry (T + 255) = endAroundCarry T := by
  simp only [endAroundCarry, Nat.add_mod_right, if_neg h, if_neg (show T + 255 ≠ 0 by omega)]

theorem computeChecksum_zero_to_max {seed : Byte} {before after : List Byte}
    (h : checksumTotal seed (before ++ after) ≠ 0) :
    computeChecksum seed (before ++ 0x00#8 :: after) = computeChecksum seed (before ++ 0xFF#8 :: after) := by
  rw [computeChecksum_eq_iff, checksumTotal_insert, checksumTotal_insert]
  exact (endAroundCarry_add_max h).symm

theorem checksumTotal_insert_two (seed x y : Byte) (before mid after : List Byte) :
    checksumTotal seed (before ++ x :: mid ++ y :: after)
      = checksumTotal seed (before ++ mid ++ after) + (x.toNat + y.toNat) := by
  simp only [checksumTotal, List.map_append, List.map_cons, List.sum_append, List.sum_cons]
  omega

/-- Settles O22: the first change adds 255 to a positive total, the second keeps the total. -/
theorem checksumMissesTheListedErrors : Obligations.ChecksumMissesTheListedErrors := by
  unfold Obligations.ChecksumMissesTheListedErrors
  refine ⟨fun seed before after s h => ?_, fun seed x y x' y' before mid after s h => ?_⟩
  · refine returns_cksum_both (computeChecksum_zero_to_max ?_) s
    rw [Ne, checksumTotal_eq_zero_iff]
    rintro ⟨hseed, hbytes⟩
    obtain hne | ⟨b, hb, hne⟩ := h
    · exact hne hseed
    · exact hne (hbytes b hb)
  · refine returns_cksum_both (computeChecksum_eq_of_total ?_) s
    rw [checksumTotal_insert_two, checksumTotal_insert_two, h]

end Sys2Proof.Machine

/-! ## The frame decoder (spec 43_frame_decoder.md): the outcomes of POLL -/

namespace Sys2Proof.Machine

/-- Settles O28: it is the model's choice of RXB at an index that does not exist (log 5). -/
theorem rxbFaultsBeyondTheBuffer : Obligations.RxbFaultsBeyondTheBuffer := by
  unfold Obligations.RxbFaultsBeyondTheBuffer
  exact fun s b ha hr hc => execRxb_fault ha hr hc b

theorem State.complete_eq_false_iff (s : State) :
    s.complete = false ↔ ¬(s.receiving = true ∧ 9 ≤ s.cur.toNat) := by
  rw [← s.complete_iff, Bool.not_eq_true]

/-- Settles O31: POLL without a complete frame, as one equation. -/
theorem pollWithoutFrameAnswersNone : Obligations.PollWithoutFrameAnswersNone := by
  unfold Obligations.PollWithoutFrameAnswersNone
  exact fun s h => execPoll_noFrame (s.complete_eq_false_iff.mpr h)

/-- POLL of a complete frame that VALIDATE accepts, beside `exec_poll_error`. -/
theorem exec_poll_ok {s : State} {f : Frame} (hr : s.receiving = true) (hc : 9 ≤ s.cur.toNat)
    (hf : validate s.buf = .ok f) :
    exec .poll s = .next { s with
      receiving := false, cur := 0#4, brkDetected := false, rxArmed := true
      actions := [.reportRxOk f, .rxArm], result := some (.poll (.rxOk f)) } := by
  have hprocess : processFrame s.begin.consumeBreak = s.begin.consumeBreak.acceptFrame f := by
    simp only [processFrame, State.consumeBreak_buf, State.begin_buf, hf]
  refine (execPoll_complete (s.complete_iff.mpr ⟨hr, hc⟩)).trans ?_
  rw [hprocess]
  rfl

/-- Settles O32: VALIDATE accepts the buffer's frame, whose sync byte is 0x55. -/
theorem pollAcceptsAGoodFrame : Obligations.PollAcceptsAGoodFrame := by
  unfold Obligations.PollAcceptsAGoodFrame
  rintro s hr hc hsync hck f rfl
  have hframe := validate_ok hsync (returns_cksum_iff.mp hck).symm
  rw [bufFrame, hsync] at hframe
  exact exec_poll_ok hr hc hframe

/-- Settles O34: VALIDATE's second comparison fails. -/
theorem pollRaisesChecksumError : Obligations.PollRaisesChecksumError := by
  unfold Obligations.PollRaisesChecksumError
  intro s expected hr hc hsync hck hne
  obtain rfl := returns_cksum_iff.mp hck
  exact ⟨exec_poll_error hr hc (validate_checksum hsync hne), rfl⟩

/-- Settles O35: `execPoll_cases` with the error split into its two kinds. -/
theorem pollRecoversAlikeFromEveryOutcome : Obligations.PollRecoversAlikeFromEveryOutcome := by
  unfold Obligations.PollRecoversAlikeFromEveryOutcome
  intro s hr hc
  have hcomplete := s.complete_iff.mpr ⟨hr, hc⟩
  obtain ⟨hnot, -⟩ | ⟨-, rep, r, hp, hv⟩ := execPoll_cases s
  · cases hnot.symm.trans hcomplete
  · refine ⟨rep, r, hp, ?_⟩
    obtain ⟨f, -, rfl, rfl⟩ | ⟨e, -, rfl, rfl⟩ := hv
    · exact .inl ⟨f, rfl, rfl⟩
    · cases e with
      | sync observed => exact .inr (.inl ⟨observed, rfl, rfl⟩)
      | checksum received expected => exact .inr (.inr ⟨received, expected, rfl, rfl⟩)

/-- Settles O37: a POLL of a complete frame leaves the decoder in IDLE, so the next one finds no frame. -/
theorem eachFrameIsReportedOnce : Obligations.EachFrameIsReportedOnce := by
  unfold Obligations.EachFrameIsReportedOnce
  intro s hcomplete
  obtain ⟨hnot, -⟩ | ⟨-, rep, r, hp, hv⟩ := execPoll_cases s
  · cases hnot.symm.trans hcomplete
  · refine ⟨_, hp, ?_, execPoll_noFrame rfl⟩
    obtain ⟨f, -, rfl, rfl⟩ | ⟨e, -, rfl, rfl⟩ := hv
    · simp
    · cases e <;> simp [FrameError.pollResult]

/-! ### What POLL reads of BUF (R31, R99, R108) -/

/-- POLL looks at BUF through VALIDATE alone, and only where the frame is complete. -/
theorem exec_poll_setBuf {s t : State} {m : Memory} (hm : s.complete = true → validate m = validate s.buf)
    (h : exec .poll s = .next t) : exec .poll { s with buf := m } = .next { t with buf := m } := by
  cases hc : s.complete with
  | false =>
    cases (execPoll_noFrame hc).symm.trans h
    exact execPoll_noFrame (s := { s with buf := m }) hc
  | true =>
    cases (execPoll_complete hc).symm.trans h
    refine (execPoll_complete (s := { s with buf := m }) hc).trans ?_
    cases hv : validate s.buf <;>
    · simp only [processFrame, State.consumeBreak_buf, State.begin_buf, hm hc, hv]
      rfl

theorem exec_poll_completes (s : State) : ∃ t : State, exec .poll s = .next t := by
  obtain ⟨-, hp⟩ | ⟨-, rep, r, hp, -⟩ := execPoll_cases s
  · exact ⟨_, hp⟩
  · exact ⟨_, hp⟩

/-- Settles O41: a write at index 0 changes none of the bytes 1 to 8 that VALIDATE reads. -/
theorem pollNeverReadsThePlaceholder : Obligations.PollNeverReadsThePlaceholder := by
  unfold Obligations.PollNeverReadsThePlaceholder
  intro s b
  obtain ⟨t, ht⟩ := exec_poll_completes s
  have hvalidate : validate (s.buf.write 0 b) = validate s.buf :=
    validate_congr fun a ha _ => Memory.read_write_other _ b (by omega)
  exact ⟨t, _, ht, exec_poll_setBuf (fun _ => hvalidate) ht, rfl, rfl, Memory.read_write_same ..⟩

/-! ### Who raises the frame errors (R120 to R123) -/

/-- VALIDATE raises cause 1 on a wrong sync byte and cause 2 on a good one. -/
theorem validate_error_code {m : Memory} {e : FrameError} (h : validate m = .error e) :
    (e.code = 1 ↔ m.read 1 ≠ 0x55#8) ∧ (e.code = 2 ↔ m.read 1 = 0x55#8) := by
  by_cases hsync : m.read 1 = 0x55#8
  · by_cases hck : m.read 8 = computeChecksum (m.read 2) (bufData m).bytes
    · cases (validate_ok hsync hck).symm.trans h
    · cases (validate_checksum hsync hck).symm.trans h
      simp [FrameError.code, hsync]
  · cases (validate_sync hsync).symm.trans h
    simp [FrameError.code, hsync]

theorem FrameError.cause_pollResult (e : FrameError) : e.pollResult.cause = e.code := by
  cases e <;> rfl

theorem exec_rxb_result {s t : State} {b : Byte} (h : exec (.rxb b) s = .next t) : t.result = none := by
  obtain ⟨-, hx⟩ | ⟨-, -, hx⟩ | ⟨-, -, -, hx⟩ | ⟨-, -, -, hx⟩ := execRxb_cases s b
  · cases hx.symm.trans h
    rfl
  · cases hx.symm.trans h
    rfl
  · cases hx.symm.trans h
    rfl
  · cases hx.symm.trans h

/-- Only POLL answers with a POLL result. -/
theorem exec_result_poll {s t : State} {i : Instr} {r : PollResult} (h : exec i s = .next t)
    (hr : t.result = some (.poll r)) : i = .poll := by
  cases i with
  | poll => rfl
  | rxb b =>
    cases (exec_rxb_result h).symm.trans hr
  | nop | reset | parity | encpid | decpid | cksum | ckvfy | send | brk =>
    cases h
    cases hr

/-- Settles O36: a POLL result with a cause is the error VALIDATE raised on a complete frame. -/
theorem frameErrorsAreRaisedByPollOnly : Obligations.FrameErrorsAreRaisedByPollOnly := by
  unfold Obligations.FrameErrorsAreRaisedByPollOnly
  intro s t i r h hr hcause
  obtain rfl := exec_result_poll h hr
  obtain ⟨-, hp⟩ | ⟨hcomplete, rep, r', hp, hv⟩ := execPoll_cases s
  · cases hp.symm.trans h
    cases hr
    exact absurd rfl hcause
  · cases hp.symm.trans h
    cases hr
    obtain ⟨f, -, -, rfl⟩ | ⟨e, he, -, rfl⟩ := hv
    · exact absurd rfl hcause
    · rw [e.cause_pollResult]
      exact ⟨rfl, hcomplete, validate_error_code he⟩

end Sys2Proof.Machine

/-! ## Rules about the whole block (spec 10_state.md, 60_exceptions.md)

`exec_assemblyStep` says once what an operation can do to the registers of the assembly, and `exec_emits` which actions
it can leave. The rules about writers and the invariant are read off the cases. -/

namespace Sys2Proof.Machine

/-- What an operation can do to BUF, CUR, RECEIVING and RX_ARMED. -/
inductive AssemblyStep (i : Instr) (s t : State) : Prop where
  /-- Nothing. -/
  | keep (same : s.SameAssembly t)
  /-- A break begins an assembly (R96). -/
  | start (op : i = .brk) (buf : t.buf = s.buf) (cur : t.cur = 0#4) (receiving : t.receiving = true)
      (armed : t.rxArmed = true)
  /-- The decoder returns to IDLE (R98, R124, R145). -/
  | finish (op : i = .reset ∨ (i = .poll ∧ s.complete = true)) (buf : t.buf = s.buf) (cur : t.cur = 0#4)
      (receiving : t.receiving = false) (armed : t.rxArmed = true)
  /-- A byte is stored at the cursor (R97). -/
  | store (b : Byte) (op : i = .rxb b) (assembling : s.receiving = true) (room : s.cur.toNat < 9)
      (buf : t.buf = s.buf.write s.cur.toNat b) (cur : t.cur.toNat = s.cur.toNat + 1)
      (receiving : t.receiving = true) (armed : t.rxArmed = decide (s.cur.toNat + 1 < 9))

theorem exec_assemblyStep {i : Instr} {s t : State} (h : exec i s = .next t) : AssemblyStep i s t := by
  cases i with
  | rxb b =>
    obtain ⟨-, hx⟩ | ⟨-, -, hx⟩ | ⟨-, hr, hc, hx⟩ | ⟨-, -, -, hx⟩ := execRxb_cases s b
    · cases hx.symm.trans h
      exact .keep (s.sameAssembly_outputs _ _)
    · cases hx.symm.trans h
      exact .keep (s.sameAssembly_outputs _ _)
    · cases hx.symm.trans h
      exact .store b rfl hr hc rfl (cursor_succ hc) hr rfl
    · cases hx.symm.trans h
  | poll =>
    obtain ⟨-, hp⟩ | ⟨hcomplete, rep, r, hp, -⟩ := execPoll_cases s
    · cases hp.symm.trans h
      exact .keep ⟨rfl, rfl, rfl, rfl⟩
    · cases hp.symm.trans h
      exact .finish (.inr ⟨rfl, hcomplete⟩) rfl rfl rfl rfl
  | reset =>
    cases h
    exact .finish (.inl rfl) rfl rfl rfl rfl
  | brk =>
    cases h
    exact .start rfl rfl rfl rfl rfl
  | nop | parity | encpid | decpid | cksum | ckvfy | send =>
    cases h
    exact .keep ⟨rfl, rfl, rfl, rfl⟩

/-- An operation completes, unless it is an armed RXB of an assembly with no room. -/
theorem exec_completes_or_no_room (i : Instr) (s : State) :
    (∃ t : State, exec i s = .next t) ∨ (s.rxArmed = true ∧ s.receiving = true ∧ 9 ≤ s.cur.toNat) := by
  cases i with
  | rxb b =>
    obtain ⟨-, hx⟩ | ⟨-, -, hx⟩ | ⟨-, -, -, hx⟩ | ⟨ha, hr, hc, -⟩ := execRxb_cases s b
    · exact .inl ⟨_, hx⟩
    · exact .inl ⟨_, hx⟩
    · exact .inl ⟨_, hx⟩
    · exact .inr ⟨ha, hr, hc⟩
  | poll => exact .inl (exec_poll_completes s)
  | nop | reset | parity | encpid | decpid | cksum | ckvfy | send | brk => exact .inl ⟨_, rfl⟩

/-! ### The writers of BUF, CUR and RECEIVING (R12, R14, R16) -/

/-- Settles O44: of the four cases only the store writes BUF, and only at the cursor. -/
theorem onlyRxbWritesTheBuffer : Obligations.OnlyRxbWritesTheBuffer := by
  unfold Obligations.OnlyRxbWritesTheBuffer
  intro s t i a h hne
  cases exec_assemblyStep h with
  | keep same => exact absurd (by rw [same.buf]) hne
  | start _ buf | finish _ buf => exact absurd (by rw [buf]) hne
  | store b op assembling _ buf =>
    rw [buf] at hne ⊢
    obtain rfl : a = s.cur.toNat := by
      by_contra ha
      exact hne (Memory.read_write_other _ b ha)
    exact ⟨rfl, assembling, b, op, Memory.read_write_same ..⟩

/-- Settles O45, case by case. -/
theorem onlyTheListedOperationsMoveTheCursor : Obligations.OnlyTheListedOperationsMoveTheCursor := by
  unfold Obligations.OnlyTheListedOperationsMoveTheCursor
  intro s t i h hne
  cases exec_assemblyStep h with
  | keep same => exact absurd same.cur hne
  | start op _ cur => exact .inl ⟨cur, .inl op⟩
  | finish op _ cur => exact .inl ⟨cur, .inr op⟩
  | store b op assembling _ _ cur => exact .inr ⟨cur, assembling, b, op⟩

/-- Settles O47: RECEIVING rises in the start of an assembly only, and falls in its end only. -/
theorem onlyBrkStartsAndOnlyPollOrResetEndsAssembly : Obligations.OnlyBrkStartsAndOnlyPollOrResetEndsAssembly := by
  unfold Obligations.OnlyBrkStartsAndOnlyPollOrResetEndsAssembly
  intro s t i h
  cases exec_assemblyStep h with
  | keep same => simp +contextual [same.receiving]
  | start op _ _ receiving => simp [op, receiving]
  | finish op _ _ receiving => simp [op, receiving]
  | store _ _ assembling _ _ _ receiving => simp [assembling, receiving]

/-! ### The contexts (R136) -/

theorem contextOf_interrupt {i : Instr} (h : contextOf i = some .interrupt) :
    i = .brk ∨ ∃ b : Byte, i = .rxb b := by
  cases i with
  | brk => exact .inl rfl
  | rxb b => exact .inr ⟨b, rfl⟩
  | nop | reset | parity | encpid | decpid | cksum | ckvfy | send | poll => cases h

theorem contextOf_foreground {i : Instr} (h : contextOf i = some .foreground) :
    i = .poll ∨ ∃ id data, i = .send id data := by
  cases i with
  | poll => exact .inl rfl
  | send id data => exact .inr ⟨id, data, rfl⟩
  | nop | reset | parity | encpid | decpid | cksum | ckvfy | brk | rxb => cases h

/-- BRK and RXB end no assembly and clear no flag. -/
theorem exec_interrupt_sets {i : Instr} {s t : State} (h : exec i s = .next t) (hi : contextOf i = some .interrupt) :
    (s.receiving = true → t.receiving = true) ∧ (s.brkDetected = true → t.brkDetected = true) := by
  refine ⟨fun hr => ?_, fun hb => ?_⟩
  · cases exec_assemblyStep h with
    | keep same => exact same.receiving.trans hr
    | start _ _ _ receiving | store _ _ _ _ _ _ receiving => exact receiving
    | finish op => obtain rfl | ⟨rfl, -⟩ := op <;> cases hi
  · rw [exec_brkDetected h, hb]
    obtain rfl | ⟨b, rfl⟩ := contextOf_interrupt hi <;> rfl

/-- POLL and SEND begin no assembly, set no flag, leave an armed reception armed and write no byte. -/
theorem exec_foreground_clears {i : Instr} {s t : State} (h : exec i s = .next t)
    (hi : contextOf i = some .foreground) :
    (t.receiving = true → s.receiving = true) ∧ (t.brkDetected = true → s.brkDetected = true)
      ∧ (s.rxArmed = true → t.rxArmed = true) ∧ ∀ a : Nat, t.buf.read a = s.buf.read a := by
  have hbrk : t.brkDetected = true → s.brkDetected = true := by
    rw [exec_brkDetected h]
    obtain rfl | ⟨id, data, rfl⟩ := contextOf_foreground hi <;> simp [breakFlagAfter]
  cases exec_assemblyStep h with
  | keep same =>
    exact ⟨same.receiving.symm.trans, hbrk, same.rxArmed.trans, fun a => by rw [same.buf]⟩
  | finish _ buf _ receiving armed => exact ⟨by simp [receiving], hbrk, fun _ => armed, fun a => by rw [buf]⟩
  | start op | store b op =>
    rw [op] at hi
    cases hi

/-- Settles O48, one context at a time. -/
theorem contextsKeepToTheirWritePermissions : Obligations.ContextsKeepToTheirWritePermissions := by
  unfold Obligations.ContextsKeepToTheirWritePermissions
  exact fun s t i h => ⟨exec_interrupt_sets h, exec_foreground_clears h⟩

/-! ### The actions (R130, R131, R134) -/

/-- The actions an operation can leave. -/
inductive Emits (i : Instr) (s t : State) : Prop where
  /-- None. -/
  | nothing (actions : t.actions = [])
  /-- The actions of a SEND. -/
  | sent (id : Ident) (data : Payload) (op : i = .send id data) (actions : t.actions = sendActions id data)
  /-- The re-arm alone. -/
  | armed (op : i = .reset ∨ i = .brk ∨ ∃ b : Byte, i = .rxb b) (actions : t.actions = [.rxArm])
      (rxArmed : t.rxArmed = true)
  /-- The report on a complete frame, then the re-arm. -/
  | reported (report : Action) (op : i = .poll) (complete : s.complete = true)
      (kind : (∃ f : Frame, report = .reportRxOk f) ∨ ∃ e : FrameError, report = e.report)
      (actions : t.actions = [report, .rxArm]) (rxArmed : t.rxArmed = true)

theorem exec_emits {i : Instr} {s t : State} (h : exec i s = .next t) : Emits i s t := by
  cases i with
  | rxb b =>
    obtain ⟨-, hx⟩ | ⟨ha, -, hx⟩ | ⟨-, -, hc, hx⟩ | ⟨-, -, -, hx⟩ := execRxb_cases s b
    · cases hx.symm.trans h
      exact .nothing rfl
    · cases hx.symm.trans h
      exact .armed (.inr (.inr ⟨b, rfl⟩)) rfl ha
    · cases hx.symm.trans h
      by_cases hroom : s.cur.toNat + 1 < 9
      · exact .armed (.inr (.inr ⟨b, rfl⟩)) (if_pos hroom) (decide_eq_true hroom)
      · exact .nothing (if_neg hroom)
    · cases hx.symm.trans h
  | poll =>
    obtain ⟨-, hp⟩ | ⟨hcomplete, rep, r, hp, hv⟩ := execPoll_cases s
    · cases hp.symm.trans h
      exact .nothing rfl
    · cases hp.symm.trans h
      obtain ⟨f, -, hrep, -⟩ | ⟨e, -, hrep, -⟩ := hv
      · exact .reported rep rfl hcomplete (.inl ⟨f, hrep⟩) rfl rfl
      · exact .reported rep rfl hcomplete (.inr ⟨e, hrep⟩) rfl rfl
  | reset =>
    cases h
    exact .armed (.inl rfl) rfl rfl
  | brk =>
    cases h
    exact .armed (.inr (.inl rfl)) rfl rfl
  | send id data =>
    cases h
    exact .sent id data rfl rfl
  | nop | parity | encpid | decpid | cksum | ckvfy =>
    cases h
    exact .nothing rfl

/-- A SEND uses the transmit sink and reports the frame it sent. -/
theorem mem_sendActions {a : Action} {id : Ident} {data : Payload} (h : a ∈ sendActions id data) :
    a = .txBreak ∨ (∃ b : Byte, a = .txByte b) ∨ ∃ f : Frame, a = .reportSent f := by
  simp only [sendActions, List.mem_cons, List.mem_append, List.mem_map, List.not_mem_nil, or_false] at h
  obtain rfl | ⟨b, -, rfl⟩ | rfl := h
  · exact .inl rfl
  · exact .inr (.inl ⟨b, rfl⟩)
  · exact .inr (.inr ⟨_, rfl⟩)

/-- Settles O43: each action belongs to the operations of the case that emits it. -/
theorem eachCollaboratorIsUsedByItsOperationsOnly : Obligations.EachCollaboratorIsUsedByItsOperationsOnly := by
  unfold Obligations.EachCollaboratorIsUsedByItsOperationsOnly
  intro s t i a h ha
  cases exec_emits h with
  | nothing actions =>
    rw [actions] at ha
    cases ha
  | sent id data op actions =>
    rw [actions] at ha
    obtain rfl | ⟨b, rfl⟩ | ⟨f, rfl⟩ := mem_sendActions ha <;> exact ⟨id, data, op⟩
  | armed op actions rxArmed =>
    rw [actions, List.mem_singleton] at ha
    subst ha
    refine ⟨?_, rxArmed, by simp [actions], by simp [actions]⟩
    obtain hreset | hbrk | hrxb := op
    · exact .inl hreset
    · exact .inr (.inl hbrk)
    · exact .inr (.inr (.inr hrxb))
  | reported report op _ kind actions rxArmed =>
    have hnotArm : report ≠ .rxArm := by
      obtain ⟨f, rfl⟩ | ⟨e, rfl⟩ := kind
      · simp
      · cases e <;> simp [FrameError.report]
    rw [actions, List.mem_pair] at ha
    obtain rfl | rfl := ha
    · obtain ⟨f, rfl⟩ | ⟨e, rfl⟩ := kind
      · exact op
      · cases e <;> exact op
    · exact ⟨.inr (.inr (.inl op)), rxArmed, by simp [actions, hnotArm], by simp [actions]⟩

/-- Only a POLL of a complete frame reports a received frame. -/
theorem complete_of_reportRxOk {i : Instr} {s t : State} {f : Frame} (h : exec i s = .next t)
    (hf : Action.reportRxOk f ∈ t.actions) : s.complete = true := by
  cases exec_emits h with
  | nothing actions => simp [actions] at hf
  | sent id data _ actions =>
    rw [actions] at hf
    obtain h | ⟨b, h⟩ | ⟨f, h⟩ := mem_sendActions hf <;> cases h
  | armed _ actions => simp [actions] at hf
  | reported _ _ complete => exact complete

/-- Settles O39: with room in the buffer every operation completes, and only a start or an end of an assembly lowers
the cursor or leaves it. -/
theorem stalledAssemblyWaitsForABreak : Obligations.StalledAssemblyWaitsForABreak := by
  unfold Obligations.StalledAssemblyWaitsForABreak
  intro s i hr hc hbrk hreset
  have hincomplete : s.complete = false := s.complete_eq_false_iff.mpr fun ⟨_, hnine⟩ => by omega
  obtain ⟨t, ht⟩ | ⟨-, -, hnine⟩ := exec_completes_or_no_room i s
  · have hassembly : t.receiving = true ∧ s.cur.toNat ≤ t.cur.toNat := by
      cases exec_assemblyStep ht with
      | keep same => exact ⟨same.receiving.trans hr, by rw [same.cur]⟩
      | start op => exact absurd op hbrk
      | finish op =>
        obtain op | ⟨-, hcomplete⟩ := op
        · exact absurd op hreset
        · cases hincomplete.symm.trans hcomplete
      | store _ _ _ _ _ cur receiving => exact ⟨receiving, by omega⟩
    refine ⟨t, ht, hassembly.1, hassembly.2, fun f hf => ?_⟩
    cases hincomplete.symm.trans (complete_of_reportRxOk ht hf)
  · omega

end Sys2Proof.Machine

/-! ## Invariants (spec 10_state.md sections 2 and 5): I-1 to I-3, safety, and the bytes nobody can observe -/

namespace Sys2Proof.Machine

/-- Settles O55: reset is IDLE and armed, with an empty buffer. -/
theorem resetMeetsTheInvariant : Obligations.ResetMeetsTheInvariant := by
  unfold Obligations.ResetMeetsTheInvariant
  exact State.inv_of_idle_armed rfl rfl rfl State.reset_buf_wf

/-- While ASSEMBLING the invariant says that reception is armed exactly while there is room. -/
theorem State.inv_of_assembling {s : State} (hr : s.receiving = true) (hc : s.cur.toNat ≤ 9)
    (ha : s.rxArmed = decide (s.cur.toNat < 9)) (hbuf : s.buf.wf = true) : s.Inv := by
  have hnine : s.cur = 9#4 ↔ s.cur.toNat = 9 := BitVec.toNat_eq
  refine ⟨hc, by simp [hr], ?_, hbuf⟩
  rw [ha, decide_eq_false_iff_not, hnine]
  simp only [hr, true_and]
  omega

/-- The invariant speaks of the registers of the assembly only. -/
theorem State.SameAssembly.inv {s t : State} (h : s.SameAssembly t) (hs : s.Inv) : t.Inv := by
  simpa only [State.Inv, h.buf, h.cur, h.receiving, h.rxArmed] using hs

theorem exec_keeps_inv {i : Instr} {s t : State} (hs : s.Inv) (h : exec i s = .next t) : t.Inv := by
  have ⟨_, _, _, hbuf⟩ := hs
  cases exec_assemblyStep h with
  | keep same => exact same.inv hs
  | start _ buf cur receiving armed =>
    exact State.inv_of_assembling receiving (by simp [cur]) (by simp [armed, cur]) (by rwa [buf])
  | finish _ buf cur receiving armed => exact State.inv_of_idle_armed receiving cur armed (by rwa [buf])
  | store b _ _ room buf cur receiving armed =>
    refine State.inv_of_assembling receiving (by omega) (by rw [armed, cur]) ?_
    rw [buf]
    exact Memory.wf_write hbuf room b

/-- A step that answers a next state performed one operation, on the state with another port. -/
theorem step_next {s t : State} (h : step s = .next t) :
    ∃ (i : Instr) (rest : List Byte), exec i { s with port := rest } = .next t := by
  cases hf : fetch s.port with
  | ok p => exact ⟨p.1, p.2, (step_of_fetch hf).symm.trans h⟩
  | error why => cases (step_of_reject hf).symm.trans h

/-- Settles O56: the invariant does not speak of the port, and every operation keeps it. -/
theorem stepKeepsTheInvariant : Obligations.StepKeepsTheInvariant := by
  unfold Obligations.StepKeepsTheInvariant
  intro s t hs h
  obtain ⟨i, rest, hexec⟩ := step_next h
  exact exec_keeps_inv (s := { s with port := rest }) hs hexec

/-- Where the invariant holds there is room whenever reception is armed, so every operation completes. -/
theorem exec_completes {s : State} (hs : s.Inv) (i : Instr) : ∃ t : State, exec i s = .next t := by
  obtain ⟨hle, -, harm, -⟩ := hs
  refine (exec_completes_or_no_room i s).resolve_right fun ⟨ha, hr, hc⟩ => ?_
  have hnine : s.cur = 9#4 := BitVec.eq_of_toNat_eq (Nat.le_antisymm hle hc)
  cases ha.symm.trans (harm.mpr ⟨hr, hnine⟩)

/-- Settles O57: the step completes its operation or refuses the command. -/
theorem stepNeverStoresOutsideTheBuffer : Obligations.StepNeverStoresOutsideTheBuffer := by
  unfold Obligations.StepNeverStoresOutsideTheBuffer
  intro s r hs h
  cases hf : fetch s.port with
  | ok p =>
    obtain ⟨t, ht⟩ := exec_completes (s := { s with port := p.2 }) hs p.1
    cases h.symm.trans ((step_of_fetch hf).trans ht)
  | error why => cases h.symm.trans (step_of_reject hf)

theorem reachable_inv {s : State} (h : Reachable s) : s.Inv := by
  induction h with
  | reset => exact resetMeetsTheInvariant
  | present s bytes _ ih => exact ih
  | step s t _ hstep ih => exact stepKeepsTheInvariant s t ih hstep

/-- Settles O58: the invariant holds along every run, and no step from it faults. -/
theorem everyReachableStateIsSafe : Obligations.EveryReachableStateIsSafe := by
  unfold Obligations.EveryReachableStateIsSafe
  exact fun s h => ⟨reachable_inv h, fun r => stepNeverStoresOutsideTheBuffer s r (reachable_inv h)⟩

/-! ### Stale bytes (R13)

Every operation reads BUF below the cursor only: RXB stores and does not read, and POLL validates where the cursor is 9
or more. -/

/-- The cursor 0 leaves no byte of BUF to agree on. -/
theorem sameButStale_of_cur_zero {s t : State} (hs : s.cur = 0#4) (ht : t.cur = 0#4)
    (hr : s.receiving = t.receiving) (hb : s.brkDetected = t.brkDetected) (ha : s.rxArmed = t.rxArmed)
    (hp : s.port = t.port) : SameButStale s t :=
  ⟨hs.trans ht.symm, hr, hb, ha, hp, fun a hlt => by simp [hs] at hlt⟩

section
variable {s t : State} (h : SameButStale s t)
include h

theorem execRxb_outcomesAlike (b : Byte) : OutcomesAlike (execRxb b s) (execRxb b t) := by
  have ⟨hcur, hr, hbrk, harm, hport, hbuf⟩ := h
  obtain ⟨ha, hx⟩ | ⟨ha, hidle, hx⟩ | ⟨ha, hrec, hc, hx⟩ | ⟨ha, hrec, hc, hx⟩ := execRxb_cases s b
  · rw [hx, execRxb_unarmed (harm ▸ ha)]
    exact ⟨h, rfl, rfl⟩
  · have hxt : execRxb b t = _ := exec_rxb_idle (harm ▸ ha) (hr ▸ hidle) b
    rw [hx, hxt]
    exact ⟨h, rfl, rfl⟩
  · rw [hx, execRxb_store (harm ▸ ha) (hr ▸ hrec) (hcur ▸ hc), ← hcur]
    refine ⟨⟨rfl, hr, hbrk, rfl, hport, fun a hlt => ?_⟩, rfl, rfl⟩
    change a < (s.cur + 1#4).toNat at hlt
    rw [cursor_succ hc] at hlt
    rw [Memory.read_write, Memory.read_write]
    split
    · rfl
    · exact hbuf a (by omega)
  · rw [hx, execRxb_fault (harm ▸ ha) (hr ▸ hrec) (hcur ▸ hc), hcur]
    rfl

theorem validate_eq_of_complete (hc : s.complete = true) : validate s.buf = validate t.buf := by
  obtain ⟨-, -, -, -, -, hbuf⟩ := h
  obtain ⟨-, hnine⟩ := s.complete_iff.mp hc
  exact validate_congr fun a _ ha => hbuf a (by omega)

theorem execPoll_outcomesAlike : OutcomesAlike (execPoll s) (execPoll t) := by
  have hvalidate := validate_eq_of_complete h
  obtain ⟨hcur, hr, hbrk, harm, hport, hbuf⟩ := h
  have hcomplete : t.complete = s.complete := by simp only [State.complete, hcur, hr]
  cases hc : s.complete with
  | false =>
    rw [execPoll_noFrame hc, execPoll_noFrame (hcomplete.trans hc)]
    exact ⟨⟨hcur, hr, rfl, harm, hport, hbuf⟩, rfl, rfl⟩
  | true =>
    rw [execPoll_complete hc, execPoll_complete (hcomplete.trans hc)]
    cases hv : validate t.buf <;>
    · simp only [processFrame, State.consumeBreak_buf, State.begin_buf, hvalidate hc, hv]
      exact ⟨sameButStale_of_cur_zero rfl rfl rfl rfl rfl hport, rfl, rfl⟩

theorem exec_outcomesAlike (i : Instr) : OutcomesAlike (exec i s) (exec i t) := by
  cases i with
  | rxb b => exact execRxb_outcomesAlike h b
  | poll => exact execPoll_outcomesAlike h
  | reset | brk =>
    obtain ⟨-, -, -, -, hport, -⟩ := h
    exact ⟨sameButStale_of_cur_zero rfl rfl rfl rfl rfl hport, rfl, rfl⟩
  | nop | parity | encpid | decpid | cksum | ckvfy | send => exact ⟨h, rfl, rfl⟩

end

/-- Settles O59: both states fetch the same operation, and every operation treats them alike. -/
theorem staleBufferBytesAreUnobservable : Obligations.StaleBufferBytesAreUnobservable := by
  unfold Obligations.StaleBufferBytesAreUnobservable
  intro s t h
  obtain ⟨hcur, hr, hbrk, harm, hport, hbuf⟩ := h
  cases hf : fetch s.port with
  | ok p =>
    rw [step_of_fetch hf, step_of_fetch (hport ▸ hf)]
    have hrest : SameButStale { s with port := p.2 } { t with port := p.2 } := ⟨hcur, hr, hbrk, harm, rfl, hbuf⟩
    exact exec_outcomesAlike hrest p.1
  | error why =>
    rw [step_of_reject hf, step_of_reject (hport ▸ hf)]
    rfl

end Sys2Proof.Machine
